-- ==== Sys2Proof/Word.lean ====
section
/-! DEFINITION. The widths of the block (00_scope.md R4, R5): bytes, operation words, response words, counts. -/

namespace Sys2Proof

/-- A byte: 8 bits, bit 7 the most significant (R5). -/
abbrev Byte := BitVec 8

/-- A raw count, `raw_temp` or `raw_hum`: 16 bits, unsigned (R4, R39). -/
abbrev RawCount := BitVec 16

/-- The data a reading operation returns, and the serial number: 32 bits (R4, R45). -/
abbrev Data := BitVec 32

/-- The operation word OP11: 11 bits (R41). -/
abbrev OpWord := BitVec 11

/-- The response word RESP36: 36 bits (R45). -/
abbrev RespWord := BitVec 36

/-- A frame written as one number, first byte most significant: 48 bits (R38). -/
abbrev FrameWord := BitVec 48

/-- The values of `CNT`: 0 to 6, "a value of a seven-element type" (R15). Log 6. -/
abbrev Count := Fin 7

/-- The addresses of the frame buffer: 0 to 5; addresses 6 and 7 "do not exist" (R27). -/
abbrev Index := Fin 6

end Sys2Proof
end

