-- ==== Sys2Proof/Syntax.lean ====
section
/-! DEFINITION. The six operations of the block (30_encoding.md R42), one constructor per row of spec/opcode_table.json. -/

namespace Sys2Proof

/-- An operation the host issues (R42). Only `PUSH` has an operand: the frame byte `imm8`, "used as it stands" (R41). -/
inductive Instr where
  /-- `CLR`: start a new frame (R67). -/
  | clr
  /-- `PUSH b`: deliver the next byte of the frame (R68). -/
  | push (b : Byte)
  /-- `STAT`: read the status (R69). -/
  | stat
  /-- `RDACC`: read the accumulator (R61). -/
  | rdacc
  /-- `DEC`: read the raw counts of a valid frame (R70). -/
  | dec
  /-- `SER`: read the 32-bit serial number of a valid frame (R71). -/
  | ser
deriving DecidableEq, Repr

end Sys2Proof
end

