-- ==== Sys2Proof/WellFormed.lean ====
section
/-! DEFINITION. What can be ill-formed in what a host issues. The operand of `PUSH` may be any byte (R41, R68 (d)), so every term
of `Instr` is well-formed; an operation WORD can be ill-formed in three ways: wider than 11 bits (R41), a reserved `opc`,
or a nonzero `imm8` where the operation takes none (R43). -/

namespace Sys2Proof

/-- Every operation is well-formed whatever its operand: "no byte value is special" (R68 (d)). -/
def Instr.wellFormed : Instr → Bool
  | .clr => true
  | .push _ => true
  | .stat => true
  | .rdacc => true
  | .dec => true
  | .ser => true

/-- An operation word has 11 bits (R41): the number fits. -/
def fitsOpWord (w : Nat) : Bool := decide (w < 2 ^ 11)

/-- The `opc` field, bits 10:8 (R41). -/
def opcField (w : OpWord) : BitVec 3 := w.extractLsb' 8 3

/-- The `imm8` field, bits 7:0 (R41). -/
def immField (w : OpWord) : Byte := w.extractLsb' 0 8

/-- `opc` selects an operation: 110 and 111 are reserved (R43). -/
def opcWellFormed (w : OpWord) : Bool := decide ((opcField w).toNat ≤ 5)

/-- `imm8` is the byte of `PUSH` (`opc` 001) and must be 0x00 for every other operation (R41). -/
def immWellFormed (w : OpWord) : Bool := opcField w == 1#3 || immField w == 0#8

/-- A legal operation word: one of the 261 of R42. Every other word is reserved (R43). -/
def OpWord.legal (w : OpWord) : Bool := opcWellFormed w && immWellFormed w

end Sys2Proof
end

