-- ==== Sys2Proof/Decode.lean ====
section
/-! DEFINITION. Decoding and encoding of the operation word OP11 (30_encoding.md R41 to R44). -/

namespace Sys2Proof

/-- Why a word is reserved (R43); each such word raises IllegalOp (R82). -/
inductive Reserved where
  /-- `opc` is 110 or 111. -/
  | opcode (opc : BitVec 3)
  /-- `imm8` is not 0x00 in an operation that takes no byte. -/
  | immediate (opc : BitVec 3) (imm8 : Byte)
deriving DecidableEq, Repr

/-- An operation without operand: its `imm8` must be 0x00 (R41, R43). -/
def decodePlain (i : Instr) (w : OpWord) : Except Reserved Instr :=
  if immField w = 0#8 then .ok i else .error (.immediate (opcField w) (immField w))

/-- The decoder, total over all 2048 words (R42, R43). -/
def decode (w : OpWord) : Except Reserved Instr :=
  match (opcField w).toNat with
  | 0 => decodePlain .clr w
  | 1 => .ok (.push (immField w))
  | 2 => decodePlain .stat w
  | 3 => decodePlain .rdacc w
  | 4 => decodePlain .dec w
  | 5 => decodePlain .ser w
  | _ => .error (.opcode (opcField w))

/-- The word of an operation: `opc` in bits 10:8, `imm8` in bits 7:0 (R42). -/
def encode : Instr → OpWord
  | .clr => 0b000#3 ++ 0#8
  | .push b => 0b001#3 ++ b
  | .stat => 0b010#3 ++ 0#8
  | .rdacc => 0b011#3 ++ 0#8
  | .dec => 0b100#3 ++ 0#8
  | .ser => 0b101#3 ++ 0#8

/-- A row of R42's opcode map: a word `w` selects the row when `w & mask = pattern`; `read` gives the operation from `imm8`. -/
structure OpcodeRow where
  pattern : OpWord
  mask : OpWord
  read : Byte → Instr

/-- R42's opcode map, its `match` and `mask` columns as the spec prints them. The decoder is written from the fields; that the two
agree is a statement about it. -/
def opcodeTable : List OpcodeRow :=
  [ ⟨0x000#11, 0x7FF#11, fun _ => .clr⟩,
    ⟨0x100#11, 0x700#11, fun b => .push b⟩,
    ⟨0x200#11, 0x7FF#11, fun _ => .stat⟩,
    ⟨0x300#11, 0x7FF#11, fun _ => .rdacc⟩,
    ⟨0x400#11, 0x7FF#11, fun _ => .dec⟩,
    ⟨0x500#11, 0x7FF#11, fun _ => .ser⟩ ]

/-- `w` selects `row` (R42). -/
def OpcodeRow.selects (row : OpcodeRow) (w : OpWord) : Bool := w &&& row.mask == row.pattern

/-- The operation word a number of `nbits` bits stands for, the bits above them being 0; none where it does not fit into 11 bits
(R41). Log 11. -/
def opWordOf (nbits w : Nat) : Option OpWord :=
  if fitsOpWord (w % 2 ^ nbits) then some (BitVec.ofNat 11 (w % 2 ^ nbits)) else none

/-- The operation the decoder reads from a word numbered as spec/opcode_table.json numbers it. The block has one word of 11 bits and
no byte order for it (R41, R44), so the number is the word. -/
def decodeTableWord (nbits w : Nat) : Option Instr :=
  match opWordOf nbits w with
  | none => none
  | some v =>
    match decode v with
    | .ok i => some i
    | .error _ => none

end Sys2Proof
end

