-- ==== Sys2Proof/Machine/State.lean ====
section
/-! DEFINITION. The state of the block (10_state.md R10 to R14, R26), what passes between host and block, and the reasons a
step can stop. -/

namespace Sys2Proof.Machine

/-- The frame buffer as memory (20_memory.md R27): (address, byte) pairs in canonical form, addresses strictly rising from 0 to 5. An
address that is not listed holds no value (R26: "a model gives them no value"). Log 4. -/
abbrev Memory := List Host.Cell

/-- The error codes of R78. Codes 5 to 15 are never produced and have no constructor (93 B4). -/
inductive ErrorCode where
  /-- Code 1: `DEC` or `SER` on a complete frame with a mismatch (R79). -/
  | crcMismatch
  /-- Code 2: `DEC` or `SER` on fewer than six bytes (R80). -/
  | frameIncomplete
  /-- Code 3: a seventh `PUSH` (R81). -/
  | frameOverrun
  /-- Code 4: a reserved operation word (R82). -/
  | illegalOp
deriving DecidableEq, Repr

/-- A response (R45): "a sum type: `Ok` (no value), `Ok(v)` with `v` of 32 bits, or `Err(code)`", with no data in `Err`. -/
inductive Response where
  | ok
  | okData (v : Data)
  | err (e : ErrorCode)
deriving DecidableEq, Repr

/-- What the host does to the block between two moments of rest (R91, R103): it issues an operation word, or resets the block. -/
inductive HostEvent where
  | op (w : OpWord)
  | reset
deriving DecidableEq, Repr

/-- A frame, the document's RawFrame, in received order (R14, R38). -/
structure Frame where
  tempMsb : Byte
  tempLsb : Byte
  tempCrc : Byte
  humMsb : Byte
  humLsb : Byte
  humCrc : Byte
deriving DecidableEq, Repr

/-- The state. `acc`, `cnt`, `mis` and `frame` are the architectural state, "exactly four items" (R10). `issued` and `responses` are
the model's own: R10 calls the host's words and resets "parameters of the step relation", and a step of this model takes no
parameter, so what the host will issue stands here, oldest first, and so do the responses it was given. Logs 1 and 2. -/
structure State where
  /-- `ACC`, the CRC accumulator (R11). -/
  acc : Byte
  /-- `CNT`, the number of bytes of the current frame accepted so far (R12, R15). -/
  cnt : Count
  /-- `MIS`, the sticky mismatch flag (R13). -/
  mis : Bool
  /-- `F[0]` to `F[5]`, the frame buffer (R14). -/
  frame : Memory
  /-- What the host does next, oldest first (R9, R103). -/
  issued : List HostEvent
  /-- The responses given so far, oldest first, one per operation (R45). -/
  responses : List Response
deriving DecidableEq, Repr

/-- Why a step stops with a fault. -/
inductive Fault where
  /-- Raised by `DEC` and `SER` where `CNT = 6`, `MIS = 0` and byte `i` of the frame buffer holds no value, which no state reached from
  reset does (R25). Safe: the block answers there with whatever the byte holds. Log 4. -/
  | unwrittenByte (i : Index)
deriving DecidableEq, Repr

/-- Why an instruction has no meaning. -/
inductive Refusal where
  /-- Raised by an arm of `exec` that has no meaning yet; no arm of this model raises it. Safe. -/
  | notModelled (mnemonic : String)
deriving DecidableEq, Repr

/-- The outcomes of a step of this machine. -/
abbrev Result := Host.Outcome State Fault Refusal

/-- The state right after reset (R26, R92): `ACC = 0xFF`, `CNT = 0`, `MIS = 0`, no value in the frame buffer; nothing issued and
nothing answered yet (logs 1, 2). -/
def State.reset : State where
  acc := 0xFF#8
  cnt := 0
  mis := false
  frame := []
  issued := []
  responses := []

end Sys2Proof.Machine
end

