-- ==== Sys2Proof/Machine/Ops.lean ====
section
/-! DEFINITION. The operations every meaning is written over: the frame buffer (20_memory.md R27), responding and raising (R7, R77),
starting a frame (R67), the reset event (R92), and taking what the host issued. -/

namespace Sys2Proof.Machine

/-- `MemRead(i, 1)` (R27): the byte at address `i`, none where the byte holds no value (log 4). -/
def Memory.read : Memory → Nat → Option Byte
  | [], _ => none
  | (a, b) :: rest, i => if a = i then some b else Memory.read rest i

/-- `MemWrite(i, 1, b)` (R27): the byte at address `i` becomes `b`, in the place the canonical form gives it. -/
def Memory.write : Memory → Nat → Byte → Memory
  | [], i, b => [(i, b)]
  | (a, c) :: rest, i, b =>
    if i < a then (i, b) :: (a, c) :: rest
    else if i = a then (i, b) :: rest
    else (a, c) :: Memory.write rest i b

/-- Addresses strictly rising, none below `lo` and all of them addresses of the frame buffer. -/
def Memory.wfFrom : Nat → Memory → Bool
  | _, [] => true
  | lo, (a, _) :: rest => decide (lo ≤ a) && decide (a < 6) && Memory.wfFrom (a + 1) rest

/-- The canonical form of the frame buffer: addresses strictly rising, each from 0 to 5 (R27). No value is left out of the list, since
an unlisted address holds none. -/
def Memory.wf (m : Memory) : Bool := Memory.wfFrom 0 m

/-- One response to the host (R45). -/
def State.respond (r : Response) (s : State) : State := { s with responses := s.responses ++ [r] }

/-- `respond Ok` (R7). -/
def respondOk (s : State) : Result := .next (s.respond .ok)

/-- `respond Ok(v)` (R7). -/
def respondData (v : Data) (s : State) : Result := .next (s.respond (.okData v))

/-- `raise E` (R77), which is all the trap entry the block has (R85): the response is `Err(E)` and no state changes. There is no
return from it and nothing to restore (R86). -/
def raise (e : ErrorCode) (s : State) : Result := .next (s.respond (.err e))

/-- `ACC <- 0xFF, CNT <- 0, MIS <- 0` with the frame buffer left alone: what `CLR` does to the state (R67). -/
def State.startFrame (s : State) : State := { s with acc := 0xFF#8, cnt := 0, mis := false }

/-- The reset event (R92): the registers as for `CLR`, the frame buffer's content unspecified, so without a value (log 5); no
response. -/
def applyReset (s : State) : Result := .next { s.startFrame with frame := [] }

/-- `F[i] <- b` (R27). -/
def State.storeByte (i : Index) (b : Byte) (s : State) : State := { s with frame := s.frame.write i b }

/-- `CNT <- CNT + 1` (R68), used below 6 only, where it does not wrap (R15). -/
def State.countByte (s : State) : State := { s with cnt := s.cnt + 1 }

/-- `F[i]` for a read: go on with its value, or fault where it holds none (log 4). -/
def loadByte (i : Index) (s : State) (k : Byte → Result) : Result :=
  match s.frame.read i with
  | some b => k b
  | none => .fault (.unwrittenByte i)

/-- A reserved word, for whatever reason it is reserved, raises IllegalOp (R43, R82). -/
def rejectReserved (_why : Reserved) (s : State) : Result := raise .illegalOp s

/-- What the host does next, and the state without it; none where it issues nothing more. -/
def State.nextEvent (s : State) : Option (HostEvent × State) :=
  match s.issued with
  | [] => none
  | e :: rest => some (e, { s with issued := rest })

/-- With nothing issued the block "simply holds its state" (R90, R103). Log 3. -/
def holdState (s : State) : Result := .next s

/-- The host issues `e` before whatever else it was going to do. -/
def State.issueFirst (e : HostEvent) (s : State) : State := { s with issued := e :: s.issued }

/-- The host issues `es`, in that order, before whatever else it was going to do. -/
def State.issueAll (es : List HostEvent) (s : State) : State := { s with issued := es ++ s.issued }

/-- The host issues the word of `nbits` bits numbered `w` next; a number that is no operation word cannot be issued (R41, log 11). -/
def State.issueTableWord (nbits w : Nat) (s : State) : State :=
  match opWordOf nbits w with
  | some v => s.issueFirst (.op v)
  | none => s

end Sys2Proof.Machine
end

