-- ==== Sys2Proof/Machine/Operands.lean ====
section
/-! DEFINITION. What an operation works on: the phase that decides what `PUSH` does with its byte (10_state.md R16), and the values
assembled from the frame (30_encoding.md R38, R39). -/

namespace Sys2Proof.Machine

/-- R16: the next byte is data for `F[i]`, a checksum byte for `F[i]`, or there is none to come. -/
inductive Phase where
  | data (i : Index)
  | check (i : Index)
  | complete
deriving DecidableEq, Repr

/-- The phase of each value of `CNT` (R16). -/
def phase : Count → Phase
  | 0 => .data 0
  | 1 => .data 1
  | 2 => .check 2
  | 3 => .data 3
  | 4 => .data 4
  | 5 => .check 5
  | 6 => .complete

/-- `raw_temp = f0 ‖ f1` (R39). -/
def rawTemp (f0 f1 : Byte) : RawCount := f0 ++ f1

/-- `raw_hum = f3 ‖ f4` (R39). -/
def rawHum (f3 f4 : Byte) : RawCount := f3 ++ f4

/-- What `DEC` returns: `raw_temp` in bits 31:16, `raw_hum` in bits 15:0 (R45, R70). -/
def packCounts (f0 f1 f3 f4 : Byte) : Data := rawTemp f0 f1 ++ rawHum f3 f4

/-- What `SER` returns: `f0 ‖ f1 ‖ f3 ‖ f4` (R39, R71). -/
def packSerial (f0 f1 f3 f4 : Byte) : Data := f0 ++ (f1 ++ (f3 ++ f4))

/-- FRAME48 (R38): the frame as one 48-bit value, first byte most significant. -/
def Frame.word (f : Frame) : FrameWord :=
  f.tempMsb ++ (f.tempLsb ++ (f.tempCrc ++ (f.humMsb ++ (f.humLsb ++ f.humCrc))))

/-- The six bytes of a 48-bit value, by the bit ranges of R38's table. -/
def Frame.ofWord (w : FrameWord) : Frame where
  tempMsb := w.extractLsb' 40 8
  tempLsb := w.extractLsb' 32 8
  tempCrc := w.extractLsb' 24 8
  humMsb := w.extractLsb' 16 8
  humLsb := w.extractLsb' 8 8
  humCrc := w.extractLsb' 0 8

/-- The six bytes in received order (R38). -/
def Frame.bytes (f : Frame) : List Byte :=
  [f.tempMsb, f.tempLsb, f.tempCrc, f.humMsb, f.humLsb, f.humCrc]

/-- The answer of `DEC` and `SER`, which differ only in how they pack the four data bytes: FrameIncomplete is tested first,
then CrcMismatch (R70, R71, R83). -/
def collect (pack : Byte → Byte → Byte → Byte → Data) (s : State) : Result :=
  if s.cnt ≠ 6 then raise .frameIncomplete s
  else if s.mis = true then raise .crcMismatch s
  else
    loadByte 0 s fun f0 => loadByte 1 s fun f1 => loadByte 3 s fun f3 => loadByte 4 s fun f4 =>
      respondData (pack f0 f1 f3 f4) s

end Sys2Proof.Machine
end

