-- ==== Sys2Proof/Machine/Flags.lean ====
section
/-! DEFINITION. The flags, the status register and the data views, all functions of the four state items (10_state.md R18 to R20). -/

namespace Sys2Proof.Machine

/-- `DONE = (CNT == 6)` (R18). -/
def State.done (s : State) : Bool := s.cnt == 6

/-- `VALID = DONE & ~MIS` (R18). -/
def State.valid (s : State) : Bool := s.done && !s.mis

/-- `CRC_ERR = DONE & MIS` (R18). -/
def State.crcErr (s : State) : Bool := s.done && s.mis

/-- `STATUS` (R19): bits 7:6 read 0, then CRC_ERR, VALID, DONE, and CNT in bits 2:0. -/
def State.status (s : State) : Byte :=
  0b00#2 ++ (BitVec.ofBool s.crcErr ++ (BitVec.ofBool s.valid ++ (BitVec.ofBool s.done ++ BitVec.ofNat 3 s.cnt.val)))

/-- `zext_32` of a byte (R5): what `STAT` and `RDACC` return (R45). -/
def zext32 (b : Byte) : Data := b.setWidth 32

/-- `RAW_T = F[0] ‖ F[1]`, without a value unless `VALID` (R20). -/
def State.rawT (s : State) : Option RawCount :=
  if s.valid then
    match s.frame.read 0, s.frame.read 1 with
    | some f0, some f1 => some (rawTemp f0 f1)
    | _, _ => none
  else none

/-- `RAW_H = F[3] ‖ F[4]`, without a value unless `VALID` (R20). -/
def State.rawH (s : State) : Option RawCount :=
  if s.valid then
    match s.frame.read 3, s.frame.read 4 with
    | some f3, some f4 => some (rawHum f3 f4)
    | _, _ => none
  else none

/-- `SERIAL = F[0] ‖ F[1] ‖ F[3] ‖ F[4]`, without a value unless `VALID` (R20). -/
def State.serial (s : State) : Option Data :=
  if s.valid then
    match s.frame.read 0, s.frame.read 1, s.frame.read 3, s.frame.read 4 with
    | some f0, some f1, some f3, some f4 => some (packSerial f0 f1 f3 f4)
    | _, _, _, _ => none
  else none

end Sys2Proof.Machine
end

