-- ==== Sys2Proof/Machine/Checksum.lean ====
section
/-! DEFINITION. The checksum family (40_checksum.md): the CRC functions R48 to R51, their other forms R54 to R56, and `RDACC`. -/

namespace Sys2Proof.Machine

/-- The polynomial 0x31, its x^8 term implicit (R4, R53). -/
def crcPoly : Byte := 0x31#8

/-- The initial value (R4). -/
def crcInit : Byte := 0xFF#8

/-- One iteration (R48): shift left, and XOR the polynomial if the bit shifted out was 1. -/
def crc8Bit (a : Byte) : Byte :=
  if a.getLsbD 7 then (a <<< 1) ^^^ crcPoly else a <<< 1

/-- `crc8_bit^k` (R6). -/
def crc8Bits : Nat → Byte → Byte
  | 0, a => a
  | k + 1, a => crc8Bits k (crc8Bit a)

/-- One byte (R49): XOR the whole byte in, then exactly 8 iterations. -/
def crc8Byte (a b : Byte) : Byte := crc8Bits 8 (a ^^^ b)

/-- A sequence of bytes (R50): a left fold from the initial value, first byte first. -/
def crc8Seq (bs : List Byte) : Byte := bs.foldl crc8Byte crcInit

/-- The checksum of a group of two bytes (R51). -/
def checksum (b0 b1 : Byte) : Byte := crc8Seq [b0, b1]

/-- `T[x] = crc8_bit^8(x)` (R54). -/
def crcT (x : Byte) : Byte := crc8Bits 8 x

/-- R54's printed table, one list per row. Evidence for R49, which is the definition; no meaning reads it. -/
def crcTableRows : List (List Byte) :=
  [ [0x00, 0x31, 0x62, 0x53, 0xC4, 0xF5, 0xA6, 0x97, 0xB9, 0x88, 0xDB, 0xEA, 0x7D, 0x4C, 0x1F, 0x2E],
    [0x43, 0x72, 0x21, 0x10, 0x87, 0xB6, 0xE5, 0xD4, 0xFA, 0xCB, 0x98, 0xA9, 0x3E, 0x0F, 0x5C, 0x6D],
    [0x86, 0xB7, 0xE4, 0xD5, 0x42, 0x73, 0x20, 0x11, 0x3F, 0x0E, 0x5D, 0x6C, 0xFB, 0xCA, 0x99, 0xA8],
    [0xC5, 0xF4, 0xA7, 0x96, 0x01, 0x30, 0x63, 0x52, 0x7C, 0x4D, 0x1E, 0x2F, 0xB8, 0x89, 0xDA, 0xEB],
    [0x3D, 0x0C, 0x5F, 0x6E, 0xF9, 0xC8, 0x9B, 0xAA, 0x84, 0xB5, 0xE6, 0xD7, 0x40, 0x71, 0x22, 0x13],
    [0x7E, 0x4F, 0x1C, 0x2D, 0xBA, 0x8B, 0xD8, 0xE9, 0xC7, 0xF6, 0xA5, 0x94, 0x03, 0x32, 0x61, 0x50],
    [0xBB, 0x8A, 0xD9, 0xE8, 0x7F, 0x4E, 0x1D, 0x2C, 0x02, 0x33, 0x60, 0x51, 0xC6, 0xF7, 0xA4, 0x95],
    [0xF8, 0xC9, 0x9A, 0xAB, 0x3C, 0x0D, 0x5E, 0x6F, 0x41, 0x70, 0x23, 0x12, 0x85, 0xB4, 0xE7, 0xD6],
    [0x7A, 0x4B, 0x18, 0x29, 0xBE, 0x8F, 0xDC, 0xED, 0xC3, 0xF2, 0xA1, 0x90, 0x07, 0x36, 0x65, 0x54],
    [0x39, 0x08, 0x5B, 0x6A, 0xFD, 0xCC, 0x9F, 0xAE, 0x80, 0xB1, 0xE2, 0xD3, 0x44, 0x75, 0x26, 0x17],
    [0xFC, 0xCD, 0x9E, 0xAF, 0x38, 0x09, 0x5A, 0x6B, 0x45, 0x74, 0x27, 0x16, 0x81, 0xB0, 0xE3, 0xD2],
    [0xBF, 0x8E, 0xDD, 0xEC, 0x7B, 0x4A, 0x19, 0x28, 0x06, 0x37, 0x64, 0x55, 0xC2, 0xF3, 0xA0, 0x91],
    [0x47, 0x76, 0x25, 0x14, 0x83, 0xB2, 0xE1, 0xD0, 0xFE, 0xCF, 0x9C, 0xAD, 0x3A, 0x0B, 0x58, 0x69],
    [0x04, 0x35, 0x66, 0x57, 0xC0, 0xF1, 0xA2, 0x93, 0xBD, 0x8C, 0xDF, 0xEE, 0x79, 0x48, 0x1B, 0x2A],
    [0xC1, 0xF0, 0xA3, 0x92, 0x05, 0x34, 0x67, 0x56, 0x78, 0x49, 0x1A, 0x2B, 0xBC, 0x8D, 0xDE, 0xEF],
    [0x82, 0xB3, 0xE0, 0xD1, 0x46, 0x77, 0x24, 0x15, 0x3B, 0x0A, 0x59, 0x68, 0xFF, 0xCE, 0x9D, 0xAC] ]

/-- The printed `T[x]`: row `x[7:4]`, column `x[3:0]` (R54). -/
def crcTable (x : Byte) : Byte := (crcTableRows.getD (x.toNat / 16) []).getD (x.toNat % 16) 0

/-- Bits 7 down to 0 of a byte from a function of the bit number. -/
def byteOfBits (bit : Nat → Bool) : Byte :=
  BitVec.ofBool (bit 7) ++ (BitVec.ofBool (bit 6) ++ (BitVec.ofBool (bit 5) ++ (BitVec.ofBool (bit 4) ++
    (BitVec.ofBool (bit 3) ++ (BitVec.ofBool (bit 2) ++ (BitVec.ofBool (bit 1) ++ BitVec.ofBool (bit 0)))))))

/-- The exclusive or of the bits of `v` whose numbers are listed. -/
def xorBits {n : Nat} (v : BitVec n) (ks : List Nat) : Bool := ks.foldl (fun x k => x ^^ v.getLsbD k) false

/-- R55's first list: which bits of `d = a ^ b` make bit `k` of `crc8_byte(a, b)`. -/
def byteStepTaps : Nat → List Nat
  | 7 => [5, 3, 2]
  | 6 => [7, 4, 2, 1]
  | 5 => [7, 6, 3, 1, 0]
  | 4 => [7, 6, 3, 0]
  | 3 => [7, 6, 3]
  | 2 => [6, 5, 2]
  | 1 => [7, 5, 4, 1]
  | 0 => [6, 4, 3, 0]
  | _ => []

/-- R55's combinational form of one byte step. -/
def crc8ByteComb (a b : Byte) : Byte := byteOfBits fun k => xorBits (a ^^^ b) (byteStepTaps k)

/-- R55's second list: which bits of `w = b0 ‖ b1` make bit `k` of the checksum. -/
def checksumTaps : Nat → List Nat
  | 7 => [14, 13, 10, 9, 8, 5, 3, 2]
  | 6 => [13, 12, 9, 8, 7, 4, 2, 1]
  | 5 => [15, 12, 11, 8, 7, 6, 3, 1, 0]
  | 4 => [13, 11, 9, 8, 7, 6, 3, 0]
  | 3 => [14, 13, 12, 9, 7, 6, 3]
  | 2 => [13, 12, 11, 8, 6, 5, 2]
  | 1 => [15, 12, 11, 10, 7, 5, 4, 1]
  | 0 => [15, 14, 11, 10, 9, 6, 4, 3, 0]
  | _ => []

/-- R55's combinational form of the checksum: bits 7 and 0 carry the constant 1 that the initial value contributes. -/
def checksumComb (b0 b1 : Byte) : Byte :=
  byteOfBits fun k => xorBits (b0 ++ b1) (checksumTaps k) ^^ (0x81#8).getLsbD k

/-- One turn of R56's loop: feedback from bit `k` of the byte and the top bit of the accumulator. -/
def serialBit (b : Byte) (a : Byte) (k : Nat) : Byte :=
  if a.getLsbD 7 ^^ b.getLsbD k then (a <<< 1) ^^^ crcPoly else a <<< 1

/-- R56's bit-serial form: bit 7 of the byte first. -/
def crc8ByteSerial (a b : Byte) : Byte := [7, 6, 5, 4, 3, 2, 1, 0].foldl (serialBit b) a

/-- `RDACC` (R61): respond with the accumulator; nothing is written. -/
def execRdacc (s : State) : Result := respondData (zext32 s.acc) s

end Sys2Proof.Machine
end

