-- ==== Sys2Proof/Machine/FrameCodec.lean ====
section
/-! DEFINITION. The frame decoder family (41_framecodec.md): the functions `valid`, `decode`, `serial` (R63 to R66) and the
operations `CLR`, `PUSH`, `STAT`, `DEC`, `SER` (R67 to R71). -/

namespace Sys2Proof.Machine

/-- A frame is valid when both checksum bytes match (R63). -/
def Frame.valid (f : Frame) : Bool :=
  checksum f.tempMsb f.tempLsb == f.tempCrc && checksum f.humMsb f.humLsb == f.humCrc

/-- The document's `decode` (R64): both counts or CrcMismatch, nothing in between (R65). -/
def decodeFrame (f : Frame) : Except ErrorCode (RawCount × RawCount) :=
  if f.valid then .ok (rawTemp f.tempMsb f.tempLsb, rawHum f.humMsb f.humLsb) else .error .crcMismatch

/-- The serial-number variant (R66): the same validation, the halves side by side. -/
def serialFrame (f : Frame) : Except ErrorCode Data :=
  if f.valid then .ok (packSerial f.tempMsb f.tempLsb f.humMsb f.humLsb) else .error .crcMismatch

/-- `CLR` (R67). -/
def execClr (s : State) : Result := respondOk s.startFrame

/-- A byte of a data phase is folded into the checksum (R68). -/
def State.foldByte (b : Byte) (s : State) : State := { s with acc := crc8Byte s.acc b }

/-- A byte of a check phase is compared with `ACC` as it stands, and `ACC` starts again (R68 (a), (b)); `MIS` is sticky (R13). -/
def State.checkByte (b : Byte) (s : State) : State := { s with mis := s.mis || b != s.acc, acc := 0xFF#8 }

/-- `PUSH b` (R68). -/
def execPush (b : Byte) (s : State) : Result :=
  match phase s.cnt with
  | .complete => raise .frameOverrun s
  | .data i => respondOk ((s.foldByte b).storeByte i b).countByte
  | .check i => respondOk ((s.checkByte b).storeByte i b).countByte

/-- `STAT` (R69). -/
def execStat (s : State) : Result := respondData (zext32 s.status) s

/-- `DEC` (R70). -/
def execDec (s : State) : Result := collect packCounts s

/-- `SER` (R71). -/
def execSer (s : State) : Result := collect packSerial s

end Sys2Proof.Machine
end

