-- ==== Sys2Proof/Machine/Dispatch.lean ====
section
/-! DEFINITION. One arm per operation (30_encoding.md R42). -/

namespace Sys2Proof.Machine

def exec (i : Instr) (s : State) : Host.Outcome State Fault Refusal :=
  match i with
  | .clr => Sys2Proof.Machine.execClr s
  | .push b => Sys2Proof.Machine.execPush b s
  | .stat => Sys2Proof.Machine.execStat s
  | .rdacc => Sys2Proof.Machine.execRdacc s
  | .dec => Sys2Proof.Machine.execDec s
  | .ser => Sys2Proof.Machine.execSer s

end Sys2Proof.Machine
end

