-- ==== Sys2Proof/Machine/Step.lean ====
section
/-! DEFINITION. One step: the block serves what the host issued next (00_scope.md R9, 20_memory.md R34). -/

namespace Sys2Proof.Machine

/-- One step. An operation word is decoded first, and a reserved word is rejected whatever the state (R83 (a)); the reset event is served
between operations (R92); with nothing issued the block holds its state (R90, log 3). -/
def step (s : State) : Host.Outcome State Fault Refusal :=
  match s.nextEvent with
  | none => holdState s
  | some (.reset, s') => applyReset s'
  | some (.op w, s') =>
    match decode w with
    | .ok i => exec i s'
    | .error why => rejectReserved why s'

/-- The host issues the word of `nbits` bits numbered `w` next. The block fetches nothing and holds no program (R17, R36): this stands
for the host's issuing it. Logs 1 and 11. -/
def State.withFetchWord (s : State) (nbits w : Nat) : State := s.issueTableWord nbits w

end Sys2Proof.Machine
end

