-- ==== Sys2Proof/Config.lean ====
section
/-! DEFINITION. What the spec leaves free. Every parameter of the block is fixed (R4): only the data bits of an error
response are left open (R45, B3). -/

namespace Sys2Proof

/-- The 32 data bits of the `n`-th response word when that response is an error: "not specified when `code != 0`"
(30_encoding.md R45; 93 B3). A free value: it has no body, so nothing can be proved of it. Log 8. DESIGN CHOICE: it may differ
from one response to the next. Safe. -/
opaque Config.errData : Nat → Data

end Sys2Proof
end

