-- ==== Sys2Proof/Machine/Responses.lean ====
section
/-! DEFINITION. The response word RESP36 (30_encoding.md R45). -/

namespace Sys2Proof.Machine

/-- The number of an error code (R78). -/
def ErrorCode.number : ErrorCode → BitVec 4
  | .crcMismatch => 1
  | .frameIncomplete => 2
  | .frameOverrun => 3
  | .illegalOp => 4

/-- The code field, bits 35:32 (R45). -/
def Response.code : Response → BitVec 4
  | .ok => 0
  | .okData _ => 0
  | .err e => e.number

/-- The data field, bits 31:0, of the `n`-th response (R45): the value read, 0 where `Ok` carries none, and a free value for an
error (log 8). -/
def Response.data (n : Nat) : Response → Data
  | .ok => 0
  | .okData v => v
  | .err _ => Config.errData n

/-- The 36-bit word of the `n`-th response (R45). -/
def Response.word (n : Nat) (r : Response) : RespWord := r.code ++ r.data n

/-- The words of a list of responses whose first is the `n`-th. -/
def respWordsFrom : Nat → List Response → List RespWord
  | _, [] => []
  | n, r :: rest => r.word n :: respWordsFrom (n + 1) rest

/-- The words the host has received, oldest first. -/
def State.respWords (s : State) : List RespWord := respWordsFrom 0 s.responses

end Sys2Proof.Machine
end

