-- ==== Sys2Proof/Machine/Assembler.lean ====
section
/-! DEFINITION. The pseudo-operations (30_encoding.md R47) and the assembler text (R46). Writing conveniences: no meaning reads
them. Text is a list of characters. -/

namespace Sys2Proof.Machine

/-- `FRAME f0 … f5` (R47): seven operations. -/
def pseudoFrame (f : Frame) : List Instr := .clr :: f.bytes.map .push

/-- `CHECKSUM b0 b1` (R47): four operations. -/
def pseudoChecksum (b0 b1 : Byte) : List Instr := [.clr, .push b0, .push b1, .rdacc]

/-- `DECODE f0 … f5` (R47): eight operations. -/
def pseudoDecode (f : Frame) : List Instr := pseudoFrame f ++ [.dec]

/-- The sequence of R72 with `SER` in place of `DEC`. -/
def pseudoSerial (f : Frame) : List Instr := pseudoFrame f ++ [.ser]

/-- The host issues the words of a list of operations. -/
def asEvents (is : List Instr) : List HostEvent := is.map fun i => .op (encode i)

/-- A hexadecimal digit, in upper case as the spec writes it. -/
def hexDigit (n : Nat) : Char := if n < 10 then Char.ofNat (48 + n) else Char.ofNat (55 + n)

/-- The value of a hexadecimal digit of either case. DESIGN CHOICE (log 12, safe): the spec does not give the case. -/
def hexValue (c : Char) : Option Nat :=
  let n := c.toNat
  if 48 ≤ n ∧ n ≤ 57 then some (n - 48)
  else if 65 ≤ n ∧ n ≤ 70 then some (n - 55)
  else if 97 ≤ n ∧ n ≤ 102 then some (n - 87)
  else none

/-- The last `k` hexadecimal digits of `n`, most significant first. -/
def hexDigits : Nat → Nat → List Char
  | 0, _ => []
  | k + 1, n => hexDigits k (n / 16) ++ [hexDigit (n % 16)]

/-- A byte as `0xNN` (R46). -/
def renderByte (b : Byte) : List Char := ['0', 'x'] ++ hexDigits 2 b.toNat

/-- The line of an operation (R46). -/
def render : Instr → List Char
  | .clr => ['C', 'L', 'R']
  | .push b => ['P', 'U', 'S', 'H', ' '] ++ renderByte b
  | .stat => ['S', 'T', 'A', 'T']
  | .rdacc => ['R', 'D', 'A', 'C', 'C']
  | .dec => ['D', 'E', 'C']
  | .ser => ['S', 'E', 'R']

/-- The name of an error code as R46's `Err(Name)` writes it (R78). -/
def ErrorCode.name : ErrorCode → List Char
  | .crcMismatch => ['C', 'r', 'c', 'M', 'i', 's', 'm', 'a', 't', 'c', 'h']
  | .frameIncomplete => ['F', 'r', 'a', 'm', 'e', 'I', 'n', 'c', 'o', 'm', 'p', 'l', 'e', 't', 'e']
  | .frameOverrun => ['F', 'r', 'a', 'm', 'e', 'O', 'v', 'e', 'r', 'r', 'u', 'n']
  | .illegalOp => ['I', 'l', 'l', 'e', 'g', 'a', 'l', 'O', 'p']

/-- A response as the spec writes it: `Ok`, `Ok(0xNNNNNNNN)`, `Err(Name)` (R46). -/
def Response.render : Response → List Char
  | .ok => ['O', 'k']
  | .okData v => ['O', 'k', '(', '0', 'x'] ++ hexDigits 8 v.toNat ++ [')']
  | .err e => ['E', 'r', 'r', '('] ++ e.name ++ [')']

/-- A byte from its text `0xNN` (R46). -/
def parseByte : List Char → Option Byte
  | [z, x, hi, lo] =>
    if z = '0' ∧ x = 'x' then
      match hexValue hi, hexValue lo with
      | some h, some l => some (BitVec.ofNat 8 (16 * h + l))
      | _, _ => none
    else none
  | _ => none

/-- The words of a line, split at each space; `word` is the word being read. -/
def splitFrom (word : List Char) : List Char → List (List Char)
  | [] => [word]
  | c :: rest => if c = ' ' then word :: splitFrom [] rest else splitFrom (word ++ [c]) rest

/-- The words of a line, split at each space. -/
def splitWords (line : List Char) : List (List Char) := splitFrom [] line

/-- A line without its comment, which runs from `;` to the end (R46), and without the blanks at the end of what is left. DESIGN
CHOICE (log 12, safe): the spec is silent on blanks before a comment and on trailing blanks of a line that has none; both are dropped
and the line is accepted. -/
def stripComment (line : List Char) : List Char :=
  ((line.takeWhile (· ≠ ';')).reverse.dropWhile (· = ' ')).reverse

/-- The operations a mnemonic or pseudo-operation stands for with its bytes (R46, R47). -/
def expandLine (name : List Char) (args : List Byte) : Option (List Instr) :=
  match args with
  | [] =>
    if name = ['C', 'L', 'R'] then some [.clr]
    else if name = ['S', 'T', 'A', 'T'] then some [.stat]
    else if name = ['R', 'D', 'A', 'C', 'C'] then some [.rdacc]
    else if name = ['D', 'E', 'C'] then some [.dec]
    else if name = ['S', 'E', 'R'] then some [.ser]
    else none
  | [b] => if name = ['P', 'U', 'S', 'H'] then some [.push b] else none
  | [b0, b1] => if name = ['C', 'H', 'E', 'C', 'K', 'S', 'U', 'M'] then some (pseudoChecksum b0 b1) else none
  | [f0, f1, f2, f3, f4, f5] =>
    if name = ['F', 'R', 'A', 'M', 'E'] then some (pseudoFrame ⟨f0, f1, f2, f3, f4, f5⟩)
    else if name = ['D', 'E', 'C', 'O', 'D', 'E'] then some (pseudoDecode ⟨f0, f1, f2, f3, f4, f5⟩)
    else none
  | _ => none

/-- The bytes of a line's operands, none if one of them is not a byte. -/
def parseBytes : List (List Char) → Option (List Byte)
  | [] => some []
  | w :: ws =>
    match parseByte w, parseBytes ws with
    | some b, some bs => some (b :: bs)
    | _, _ => none

/-- The operations of one line of text (R46, R47); a line that is empty, or blank but for its comment,
gives none of them. DESIGN CHOICE (log 12, safe): the spec is silent on such a line. -/
def parseLine (line : List Char) : Option (List Instr) :=
  match splitWords (stripComment line) with
  | [] => some []
  | [[]] => some []
  | name :: ws =>
    match parseBytes ws with
    | some bs => expandLine name bs
    | none => none

end Sys2Proof.Machine
end

