-- ==== Sys2Proof/Safety.lean ====
section
/-! DEFINITION. What claims are stated in: runs, the invariants of every reachable state (10_state.md R23 to R25), the block seen as
a function of the bytes it accepted, and error patterns on one half of a frame (40_checksum.md R59). -/

namespace Sys2Proof.Machine

/-- Serve the host's events `es` one after the other, from `s` (R34, R103). -/
def runEvents (es : List HostEvent) (s : State) : Result := Host.Core.run Sys2Proof.core es.length (s.issueAll es)

/-- Two states with the same architectural state, "exactly four items" (R10). -/
def State.sameBlock (s t : State) : Prop := t.acc = s.acc ∧ t.cnt = s.cnt ∧ t.mis = s.mis ∧ t.frame = s.frame

/-- Every byte below `CNT` holds a value (R25). -/
def State.heldBelowCount (s : State) : Prop := ∀ i : Index, i.val < s.cnt.val → ∃ b, s.frame.read i = some b

/-- R23: `ACC` is a function of `CNT` and the buffer. -/
def State.accTracksFrame (s : State) : Prop :=
  (s.cnt = 0 ∨ s.cnt = 3 ∨ s.cnt = 6 → s.acc = 0xFF#8) ∧
  (s.cnt = 1 → ∀ b0, s.frame.read 0 = some b0 → s.acc = crc8Byte 0xFF#8 b0) ∧
  (s.cnt = 2 → ∀ b0 b1, s.frame.read 0 = some b0 → s.frame.read 1 = some b1 → s.acc = checksum b0 b1) ∧
  (s.cnt = 4 → ∀ b3, s.frame.read 3 = some b3 → s.acc = crc8Byte 0xFF#8 b3) ∧
  (s.cnt = 5 → ∀ b3 b4, s.frame.read 3 = some b3 → s.frame.read 4 = some b4 → s.acc = checksum b3 b4)

/-- The bytes at `i`, `j` and `k` hold values and the third is not the checksum of the first two. -/
def State.halfMismatch (s : State) (i j k : Index) : Prop :=
  ∃ b0 b1 c, s.frame.read i = some b0 ∧ s.frame.read j = some b1 ∧ s.frame.read k = some c ∧ checksum b0 b1 ≠ c

/-- R24: `MIS` is a function of `CNT` and the buffer. -/
def State.misTracksFrame (s : State) : Prop :=
  s.mis = true ↔ (3 ≤ s.cnt.val ∧ s.halfMismatch 0 1 2) ∨ (s.cnt = 6 ∧ s.halfMismatch 3 4 5)

/-- The invariants of every reachable state: the canonical form of the frame buffer, and R23 to R25. -/
structure State.Inv (s : State) : Prop where
  wf : s.frame.wf = true
  held : s.heldBelowCount
  acc : s.accTracksFrame
  mis : s.misTracksFrame

/-! The block as a function of the bytes accepted since the last `CLR` or reset (R25, R72, R73), written without `ACC`, `MIS` or
a phase: only with `checksum`, `decode` and `serial`. -/

/-- The bytes accepted after an operation: `PUSH` beyond six bytes is refused (R81). -/
def acceptOp (bs : List Byte) : Instr → List Byte
  | .clr => []
  | .push b => if bs.length < 6 then bs ++ [b] else bs
  | .stat => bs
  | .rdacc => bs
  | .dec => bs
  | .ser => bs

/-- The frame six accepted bytes make (R38). -/
def frameOf : List Byte → Option Frame
  | [f0, f1, f2, f3, f4, f5] => some ⟨f0, f1, f2, f3, f4, f5⟩
  | _ => none

/-- The checksum so far of the half being received (R23). -/
def accOf : List Byte → Byte
  | [b0] => crc8Seq [b0]
  | [b0, b1] => checksum b0 b1
  | [_, _, _, b3] => crc8Seq [b3]
  | [_, _, _, b3, b4] => checksum b3 b4
  | _ => 0xFF#8

/-- Whether a half received so far was mismatched (R24). -/
def misOf : List Byte → Bool
  | [b0, b1, c] => checksum b0 b1 != c
  | [b0, b1, c, _] => checksum b0 b1 != c
  | [b0, b1, c, _, _] => checksum b0 b1 != c
  | [b0, b1, c, b3, b4, d] => (checksum b0 b1 != c) || (checksum b3 b4 != d)
  | _ => false

/-- What `STAT` answers, as a number: the count, or 0x1E for a valid and 0x2E for an invalid complete frame (R19). -/
def statusOf (bs : List Byte) : Byte :=
  match frameOf bs with
  | none => BitVec.ofNat 8 bs.length
  | some f => if f.valid then 0x1E#8 else 0x2E#8

/-- The response to an operation, from the accepted bytes alone (R73). -/
def answerOf (bs : List Byte) : Instr → Response
  | .clr => .ok
  | .push _ => if bs.length < 6 then .ok else .err .frameOverrun
  | .stat => .okData (zext32 (statusOf bs))
  | .rdacc => .okData (zext32 (accOf bs))
  | .dec =>
    match frameOf bs with
    | none => .err .frameIncomplete
    | some f =>
      match decodeFrame f with
      | .ok (t, h) => .okData (t ++ h)
      | .error e => .err e
  | .ser =>
    match frameOf bs with
    | none => .err .frameIncomplete
    | some f =>
      match serialFrame f with
      | .ok v => .okData v
      | .error e => .err e

/-- The accepted bytes after a host event: a reserved word changes nothing (R82), reset starts again (R92). -/
def acceptEvent (bs : List Byte) : HostEvent → List Byte
  | .reset => []
  | .op w =>
    match decode w with
    | .ok i => acceptOp bs i
    | .error _ => bs

/-- The responses a host event brings: none for reset (R92), IllegalOp for a reserved word (R82). -/
def answerEvent (bs : List Byte) : HostEvent → List Response
  | .reset => []
  | .op w =>
    match decode w with
    | .ok i => [answerOf bs i]
    | .error _ => [.err .illegalOp]

/-- The events that are more than a read or a reserved word: reset, `CLR` and `PUSH` (R72). -/
def touchesBlock : HostEvent → Bool
  | .reset => true
  | .op w =>
    match decode w with
    | .ok .clr => true
    | .ok (.push _) => true
    | _ => false

/-- The accepted bytes after a sequence of events. -/
def acceptAll (bs : List Byte) : List HostEvent → List Byte
  | [] => bs
  | e :: es => acceptAll (acceptEvent bs e) es

/-- The responses of a sequence of events. -/
def answerAll (bs : List Byte) : List HostEvent → List Response
  | [] => []
  | e :: es => answerEvent bs e ++ answerAll (acceptEvent bs e) es

/-- `s` is a state of the block after accepting exactly `bs` since the last `CLR` or reset (R23 to R25). -/
structure State.Represents (s : State) (bs : List Byte) : Prop where
  cnt : bs.length = s.cnt.val
  frame : ∀ i, i < bs.length → s.frame.read i = bs[i]?
  acc : s.acc = accOf bs
  mis : s.mis = misOf bs

/-- The responses that end a `DECODE` sequence (R72). -/
def decodeResponse (f : Frame) : Response :=
  match decodeFrame f with
  | .ok (t, h) => .okData (t ++ h)
  | .error e => .err e

/-- The responses that end the sequence of R72 with `SER`. -/
def serialResponse (f : Frame) : Response :=
  match serialFrame f with
  | .ok v => .okData v
  | .error e => .err e

/-- One half of a frame as a 24-bit word `b0 ‖ b1 ‖ c` passes its check (R59). -/
def halfPasses (x : BitVec 24) : Bool := checksum (x.extractLsb' 16 8) (x.extractLsb' 8 8) == x.extractLsb' 0 8

/-- The number of bits set in an error pattern (R59). -/
def weight (e : BitVec 24) : Nat := (List.range 24).countP fun k => e.getLsbD k

end Sys2Proof.Machine
end

