-- ==== Sys2Proof/Certificates/Slice0/Obligations.lean ====
section
/-! DEFINITION. The statements for the provers. Each docstring says which rule of spec/ it formalises; a clause that rests on a
choice of the model names its log entry. -/

open Sys2Proof Sys2Proof.Machine

/-! Encodings. -/

/-- R41, R42: the word of an operation is read back as that operation, with every byte of `PUSH`. -/
def Obligations.DecodeReadsBackEncode : Prop :=
  ∀ i : Instr, decode (encode i) = .ok i

/-- R42, R43: no operation has a second word ("no aliases", D11): a word that decodes is the word of its operation. -/
def Obligations.DecodedWordIsTheOnlyOne : Prop :=
  ∀ (w : OpWord) (i : Instr), decode w = .ok i → encode i = w

/-- R42: the decoder, written from the fields, is the `match`/`mask` table, and no word selects two rows. -/
def Obligations.DecoderFollowsMatchAndMask : Prop :=
  (∀ (w : OpWord) (i : Instr),
    decode w = .ok i ↔ ∃ row ∈ opcodeTable, row.selects w = true ∧ row.read (immField w) = i) ∧
  opcodeTable.Pairwise fun p q => ∀ w : OpWord, ¬ (p.selects w = true ∧ q.selects w = true)

/-- R43, R82: which words are reserved, and that a reserved word raises IllegalOp in every state: the response `Err(IllegalOp)`, and no
other change than that the word has been taken from the host. -/
def Obligations.ReservedWordsRaiseIllegalOp : Prop :=
  (∀ w : OpWord,
    (∃ why, decode w = .error why) ↔
      (opcField w = 0b110#3 ∨ opcField w = 0b111#3) ∨
      ((opcField w = 0b000#3 ∨ opcField w = 0b010#3 ∨ opcField w = 0b011#3 ∨ opcField w = 0b100#3 ∨ opcField w = 0b101#3) ∧
        immField w ≠ 0x00#8)) ∧
  (∀ (s : State) (w : OpWord) (why : Reserved) (rest : List HostEvent),
    s.issued = .op w :: rest → decode w = .error why →
      step s = .next { s with issued := rest, responses := s.responses ++ [.err .illegalOp] })

/-- R42: of the 2048 operation words, 261 are legal. -/
def Obligations.LegalWordsNumber261 : Prop :=
  ((List.range 2048).countP fun n => (decode (BitVec.ofNat 11 n)).isOk) = 261

/-- R42, and the words of spec/95_test_vectors.md V7 with their decodings. -/
def Obligations.WordsOfTheSpecDecode : Prop :=
  decode 0b00000000000#11 = .ok .clr ∧ decode 0b00100000000#11 = .ok (.push 0x00#8) ∧
  decode 0b00111111111#11 = .ok (.push 0xFF#8) ∧ decode 0b00110100101#11 = .ok (.push 0xA5#8) ∧
  decode 0b01000000000#11 = .ok .stat ∧ decode 0b01100000000#11 = .ok .rdacc ∧
  decode 0b10000000000#11 = .ok .dec ∧ decode 0b10100000000#11 = .ok .ser

/-- R38, R39: a frame and its 48-bit value give each other, and the operands are the bit ranges of R38's table. -/
def Obligations.FrameWordHoldsTheFields : Prop :=
  (∀ f : Frame, Frame.ofWord f.word = f) ∧ (∀ w : FrameWord, (Frame.ofWord w).word = w) ∧
  (∀ w : FrameWord,
    rawTemp (Frame.ofWord w).tempMsb (Frame.ofWord w).tempLsb = w.extractLsb' 32 16 ∧
    rawHum (Frame.ofWord w).humMsb (Frame.ofWord w).humLsb = w.extractLsb' 8 16 ∧
    packSerial (Frame.ofWord w).tempMsb (Frame.ofWord w).tempLsb (Frame.ofWord w).humMsb (Frame.ofWord w).humLsb =
      w.extractLsb' 32 16 ++ w.extractLsb' 8 16)

/-- R45: the fields of a response word; `Ok` without a value has data 0; of an error's data bits nothing is said. -/
def Obligations.ResponseWordFields : Prop :=
  ∀ n : Nat,
    Response.word n .ok = 0x000000000#36 ∧
    (∀ v : Data, (Response.word n (.okData v)).extractLsb' 32 4 = 0#4 ∧ (Response.word n (.okData v)).extractLsb' 0 32 = v) ∧
    (Response.word n (.err .crcMismatch)).extractLsb' 32 4 = 1#4 ∧
    (Response.word n (.err .frameIncomplete)).extractLsb' 32 4 = 2#4 ∧
    (Response.word n (.err .frameOverrun)).extractLsb' 32 4 = 3#4 ∧
    (Response.word n (.err .illegalOp)).extractLsb' 32 4 = 4#4

/-- R45: one response word per response, the `n`-th carrying the `n`-th response's code, and never a code from 5 to 15. -/
def Obligations.ResponseWordsMatchResponses : Prop :=
  ∀ s : State, s.respWords.length = s.responses.length ∧
    (∀ (n : Nat) (r : Response), s.responses[n]? = some r →
      ∃ w, s.respWords[n]? = some w ∧ w.extractLsb' 32 4 = r.code ∧ r.code.toNat ≤ 4)

/-- R46: a line written for an operation is read as that operation, with or without a comment after it. That a blank may stand before
the comment is the model's choice (log 12). -/
def Obligations.AssemblerReadsWhatItWrites : Prop :=
  ∀ (i : Instr) (comment : List Char),
    parseLine (render i) = some [i] ∧ parseLine (render i ++ [' ', ';'] ++ comment) = some [i]

/-- R47: the words the pseudo-operations expand to. -/
def Obligations.PseudoOperationsExpand : Prop :=
  (∀ f : Frame, (pseudoFrame f).map encode =
    [0x000#11, 0b001#3 ++ f.tempMsb, 0b001#3 ++ f.tempLsb, 0b001#3 ++ f.tempCrc, 0b001#3 ++ f.humMsb, 0b001#3 ++ f.humLsb,
      0b001#3 ++ f.humCrc]) ∧
  (∀ b0 b1 : Byte, (pseudoChecksum b0 b1).map encode = [0x000#11, 0b001#3 ++ b0, 0b001#3 ++ b1, 0x300#11]) ∧
  (∀ f : Frame, (pseudoDecode f).map encode = (pseudoFrame f).map encode ++ [0x400#11])

/-! One step. -/

/-- R9, R34, R83 (a): when the host issues a word that decodes to `i` next, a step is `exec i` on the state with that word taken; nothing
else is added around it. -/
def Obligations.StepRunsTheDecodedOperation : Prop :=
  ∀ (s : State) (w : OpWord) (i : Instr) (rest : List HostEvent),
    s.issued = .op w :: rest → decode w = .ok i → step s = exec i { s with issued := rest }

/-- R90, R103: with nothing issued a step holds the state (log 3). -/
def Obligations.StepHoldsAnIdleBlock : Prop :=
  ∀ s : State, s.issued = [] → step s = .next s

/-- R92: the reset event between two operations; it has no response. That the frame buffer then holds no value is the model's choice for
"becomes unspecified" (log 5). -/
def Obligations.StepServesTheResetEvent : Prop :=
  ∀ (s : State) (rest : List HostEvent), s.issued = .reset :: rest →
    ∃ t, step s = .next t ∧ t.acc = 0xFF#8 ∧ t.cnt = 0 ∧ t.mis = false ∧ (∀ a : Nat, t.frame.read a = none) ∧
      t.issued = rest ∧ t.responses = s.responses

/-- R26: the two columns of the table, "after reset" and "after CLR". Of the frame buffer after reset the rule says nothing; after `CLR`
it is unchanged. -/
def Obligations.ResetValuesAndValuesAfterClear : Prop :=
  (State.reset.acc = 0xFF#8 ∧ State.reset.cnt = 0 ∧ State.reset.mis = false ∧
    State.reset.done = false ∧ State.reset.valid = false ∧ State.reset.crcErr = false ∧ State.reset.status = 0x00#8 ∧
    State.reset.rawT = none ∧ State.reset.rawH = none ∧ State.reset.serial = none) ∧
  (∀ s : State, ∃ t, exec .clr s = .next t ∧ t.acc = 0xFF#8 ∧ t.cnt = 0 ∧ t.mis = false ∧ t.frame = s.frame ∧
    t.done = false ∧ t.valid = false ∧ t.crcErr = false ∧ t.status = 0x00#8 ∧
    t.rawT = none ∧ t.rawH = none ∧ t.serial = none)

/-! The checksum. -/

/-- R48: one iteration bit by bit, and its examples. -/
def Obligations.OneIterationBitByBit : Prop :=
  (∀ a : Byte,
    crc8Bit a = (if a.getLsbD 7 then (a <<< 1) ^^^ 0x31#8 else a <<< 1) ∧
    (crc8Bit a).getLsbD 0 = a.getLsbD 7 ∧ (crc8Bit a).getLsbD 1 = a.getLsbD 0 ∧
    (crc8Bit a).getLsbD 2 = a.getLsbD 1 ∧ (crc8Bit a).getLsbD 3 = a.getLsbD 2 ∧
    (crc8Bit a).getLsbD 4 = (a.getLsbD 3 ^^ a.getLsbD 7) ∧ (crc8Bit a).getLsbD 5 = (a.getLsbD 4 ^^ a.getLsbD 7) ∧
    (crc8Bit a).getLsbD 6 = a.getLsbD 5 ∧ (crc8Bit a).getLsbD 7 = a.getLsbD 6) ∧
  crc8Bit 0x00 = 0x00 ∧ crc8Bit 0x01 = 0x02 ∧ crc8Bit 0x40 = 0x80 ∧ crc8Bit 0x7F = 0xFE ∧ crc8Bit 0x80 = 0x31 ∧
  crc8Bit 0x81 = 0x33 ∧ crc8Bit 0xC0 = 0xB1 ∧ crc8Bit 0xFF = 0xCF ∧ crc8Bit 0x98 = 0x01

/-- R60: the table's rows (`b0`, `b1`, `step1`, checksum), and the check value of the nine ASCII bytes "123456789". -/
def Obligations.ChecksumValuesOfTheSpec : Prop :=
  (([(0x00, 0x00, 0xAC, 0x81), (0xFF, 0xFF, 0x00, 0xAC), (0xFF, 0x00, 0x00, 0x00), (0x66, 0x4D, 0xB1, 0xFF),
      (0x00, 0x01, 0xAC, 0xB0), (0x01, 0x00, 0x9D, 0x75), (0x80, 0x00, 0xD6, 0xA2), (0x00, 0x80, 0xAC, 0xFB),
      (0x00, 0xFF, 0xAC, 0x2D), (0xBE, 0xEF, 0x0C, 0x92), (0x66, 0x4C, 0xB1, 0xCE), (0x8C, 0x40, 0xAB, 0x2B),
      (0x12, 0x34, 0x8D, 0x37), (0x56, 0x78, 0x74, 0x7D), (0xAB, 0xCD, 0xBA, 0x6F), (0x31, 0x31, 0x58, 0x33),
      (0xA5, 0x5A, 0xA5, 0xAC), (0x64, 0x8B, 0xD3, 0xC7)] : List (Byte × Byte × Byte × Byte)).all fun row =>
    crc8Byte 0xFF#8 row.1 == row.2.2.1 && checksum row.1 row.2.1 == row.2.2.2) = true ∧
  crc8Seq [0x31, 0x32, 0x33, 0x34, 0x35, 0x36, 0x37, 0x38, 0x39] = 0xF7

/-- R54: the printed table is `T`, the byte step and the checksum go through it, and `T` is linear and a bijection. -/
def Obligations.CrcTableForm : Prop :=
  (∀ x : Byte, crcTable x = crcT x) ∧
  (∀ a b : Byte, crc8Byte a b = crcT (a ^^^ b)) ∧
  (∀ b0 b1 : Byte, checksum b0 b1 = crcT (crcT (0xFF#8 ^^^ b0) ^^^ b1)) ∧
  (∀ x y : Byte, crcT (x ^^^ y) = crcT x ^^^ crcT y) ∧ crcT 0x00#8 = 0x00#8 ∧
  Function.Bijective crcT

/-- R55: both combinational forms. -/
def Obligations.CombinationalFormsAgree : Prop :=
  (∀ a b : Byte, crc8ByteComb a b = crc8Byte a b) ∧ (∀ b0 b1 : Byte, checksumComb b0 b1 = checksum b0 b1) ∧
  checksum 0x00#8 0x00#8 = 0x81#8

/-- R56: the bit-serial form equals the byte step for every accumulator and byte. -/
def Obligations.BitSerialFormAgrees : Prop :=
  ∀ a b : Byte, crc8ByteSerial a b = crc8Byte a b

/-- R57: feeding the checksum byte through leaves zero exactly when it matches. -/
def Obligations.ZeroResidueExactlyOnMatch : Prop :=
  ∀ b0 b1 c : Byte, crc8Seq [b0, b1, c] = 0x00#8 ↔ c = checksum b0 b1

/-- R58: a bijection in each byte, and each value taken by 256 pairs. -/
def Obligations.ChecksumBijectiveInEachByte : Prop :=
  (∀ b0 : Byte, Function.Bijective fun b1 => checksum b0 b1) ∧
  (∀ b1 : Byte, Function.Bijective fun b0 => checksum b0 b1) ∧
  (∀ v : Byte, Nat.card { p : Byte × Byte // checksum p.1 p.2 = v } = 256)

/-- R59: whether a corrupted half passes depends on the error pattern alone; and (c) a four-bit pattern that passes. -/
def Obligations.ErrorDetectionDependsOnThePattern : Prop :=
  (∀ x y e : BitVec 24, halfPasses x = true → halfPasses y = true → halfPasses (x ^^^ e) = halfPasses (y ^^^ e)) ∧
  weight 0x800023#24 = 4 ∧ (∀ x : BitVec 24, halfPasses x = true → halfPasses (x ^^^ 0x800023#24) = true)

/-- R59 (a), (b): errors of 1, 2 or 3 bits and errors of an odd number of bits are detected. -/
def Obligations.FewBitAndOddErrorsDetected : Prop :=
  ∀ x e : BitVec 24, halfPasses x = true → (1 ≤ weight e ∧ weight e ≤ 3) ∨ weight e % 2 = 1 → halfPasses (x ^^^ e) = false

/-- R59 (d): an error burst of length 1 to 8, wherever it lies in the 24 bits, is detected. -/
def Obligations.BurstErrorsDetected : Prop :=
  ∀ (x : BitVec 24) (burst : Byte) (k : Nat), burst ≠ 0#8 → k ≤ 16 → halfPasses x = true →
    halfPasses (x ^^^ (burst.setWidth 24 <<< k)) = false

/-- R59 (e): changing any single data bit changes the checksum, for every input. -/
def Obligations.SingleBitDiffusion : Prop :=
  ∀ (b0 b1 : Byte) (k : Nat), k < 8 →
    checksum (b0 ^^^ (1#8 <<< k)) b1 ≠ checksum b0 b1 ∧ checksum b0 (b1 ^^^ (1#8 <<< k)) ≠ checksum b0 b1

/-! The frame functions. -/

/-- R63, R64: a frame is valid when both checksum bytes match; `decode` rejects every other and gives both counts of a valid one. -/
def Obligations.DecodeAcceptsExactlyValidFrames : Prop :=
  ∀ f : Frame,
    (f.valid = true ↔ checksum f.tempMsb f.tempLsb = f.tempCrc ∧ checksum f.humMsb f.humLsb = f.humCrc) ∧
    (decodeFrame f = .error .crcMismatch ↔
      checksum f.tempMsb f.tempLsb ≠ f.tempCrc ∨ checksum f.humMsb f.humLsb ≠ f.humCrc) ∧
    (∀ t h : RawCount, decodeFrame f = .ok (t, h) ↔
      (checksum f.tempMsb f.tempLsb = f.tempCrc ∧ checksum f.humMsb f.humLsb = f.humCrc) ∧
        t = f.tempMsb ++ f.tempLsb ∧ h = f.humMsb ++ f.humLsb)

/-- R40: for each choice of data bytes exactly one pair of checksum bytes is valid, so there are 2^32 valid frames and each pair of counts
is the decode of exactly one; the all-zero and the all-ones frame are invalid. -/
def Obligations.EveryCountPairHasOneValidFrame : Prop :=
  (∀ f0 f1 f3 f4 : Byte, ∃! c : Byte × Byte, Frame.valid ⟨f0, f1, c.1, f3, f4, c.2⟩ = true) ∧
  (∀ t h : RawCount, ∃! f : Frame, decodeFrame f = .ok (t, h)) ∧
  Nat.card { f : Frame // f.valid = true } = 2 ^ 32 ∧
  Frame.valid ⟨0, 0, 0, 0, 0, 0⟩ = false ∧ Frame.valid ⟨0xFF, 0xFF, 0xFF, 0xFF, 0xFF, 0xFF⟩ = false

/-- R66: the serial number of a valid frame is the four data bytes, so the two counts side by side; an invalid frame has none. -/
def Obligations.SerialIsTheCountsSideBySide : Prop :=
  (∀ (f : Frame) (t h : RawCount), decodeFrame f = .ok (t, h) →
    serialFrame f = .ok (f.tempMsb ++ f.tempLsb ++ f.humMsb ++ f.humLsb) ∧
    serialFrame f = .ok ((t.setWidth 32 <<< 16) ||| h.setWidth 32)) ∧
  (∀ (f : Frame) (e : ErrorCode), decodeFrame f = .error e → serialFrame f = .error .crcMismatch) ∧
  serialFrame ⟨0x12, 0x34, 0x37, 0x56, 0x78, 0x7D⟩ = .ok 0x12345678#32

/-! The operations: what each one does, and where it completes. -/

/-- R67: `CLR` in every state. -/
def Obligations.ClearStartsANewFrame : Prop :=
  encode .clr = 0x000#11 ∧
  (∀ n : Byte, n ≠ 0x00#8 → ∃ why, decode (0b000#3 ++ n) = .error why) ∧
  (∀ s : State, ∃ t, exec .clr s = .next t ∧ t.acc = 0xFF#8 ∧ t.cnt = 0 ∧ t.mis = false ∧ t.frame = s.frame ∧
    t.done = false ∧ t.valid = false ∧ t.crcErr = false ∧
    t.issued = s.issued ∧ t.responses = s.responses ++ [.ok] ∧
    (∃ u, exec .clr t = .next u ∧ t.sameBlock u) ∧
    exec .dec t = .next { t with responses := t.responses ++ [.err .frameIncomplete] }) ∧
  (∃ t, exec .clr State.reset = .next t ∧ State.reset.sameBlock t)

/-- R68: `PUSH b` in every state: below six bytes it accepts the byte by the phase of `CNT`; at six it raises FrameOverrun. -/
def Obligations.PushDeliversTheNextByte : Prop :=
  ∀ (b : Byte) (s : State),
    encode (.push b) = 0x100#11 ||| b.setWidth 11 ∧
    (s.cnt.val < 6 → ∃ t, exec (.push b) s = .next t ∧
      t.frame.read s.cnt.val = some b ∧ (∀ a : Nat, a ≠ s.cnt.val → t.frame.read a = s.frame.read a) ∧
      (s.cnt = 0 ∨ s.cnt = 1 ∨ s.cnt = 3 ∨ s.cnt = 4 → t.acc = crc8Byte s.acc b ∧ t.mis = s.mis) ∧
      (s.cnt = 2 ∨ s.cnt = 5 → t.acc = 0xFF#8 ∧ (b ≠ s.acc → t.mis = true) ∧ (b = s.acc → t.mis = s.mis)) ∧
      t.cnt.val = s.cnt.val + 1 ∧ (t.cnt = 6 → t.done = true ∧ (t.valid ^^ t.crcErr) = true) ∧
      t.issued = s.issued ∧ t.responses = s.responses ++ [.ok]) ∧
    (s.cnt = 6 → exec (.push b) s = .next { s with responses := s.responses ++ [.err .frameOverrun] })

/-- R19: the fields of STATUS bit by bit, and the eight values it can take; while the frame is incomplete it does not show `MIS`.
`STAT` returns it zero-extended. -/
def Obligations.StatusFieldsAndValues : Prop :=
  (∀ s : State,
    (s.status.extractLsb' 0 3).toNat = s.cnt.val ∧ s.status.getLsbD 3 = decide (s.cnt = 6) ∧
    s.status.getLsbD 4 = (decide (s.cnt = 6) && !s.mis) ∧ s.status.getLsbD 5 = (decide (s.cnt = 6) && s.mis) ∧
    s.status.extractLsb' 6 2 = 0#2 ∧
    (s.cnt.val < 6 → s.status = BitVec.ofNat 8 s.cnt.val) ∧
    (s.cnt = 6 → s.mis = false → s.status = 0x1E#8) ∧ (s.cnt = 6 → s.mis = true → s.status = 0x2E#8) ∧
    exec .stat s = .next { s with responses := s.responses ++ [.okData (s.status.setWidth 32)] }) ∧
  State.reset.status = 0x00#8

/-- R69: `STAT` in every state: STATUS zero-extended, with the only possible responses, and nothing changed but the response. -/
def Obligations.StatReturnsTheStatus : Prop :=
  encode .stat = 0x200#11 ∧ (∀ n : Byte, n ≠ 0x00#8 → ∃ why, decode (0b010#3 ++ n) = .error why) ∧
  (∀ s : State, ∃ v : Data, exec .stat s = .next { s with responses := s.responses ++ [.okData v] } ∧
    v = s.status.setWidth 32 ∧ (s.cnt.val < 6 → v = BitVec.ofNat 32 s.cnt.val) ∧
    (s.cnt = 6 → s.valid = true → v = 0x0000001E#32) ∧ (s.cnt = 6 → s.crcErr = true → v = 0x0000002E#32))

/-- R61: `RDACC` in every state, and what it returns in a state that meets the invariants (R23). -/
def Obligations.RdaccReturnsTheAccumulator : Prop :=
  encode .rdacc = 0x300#11 ∧ (∀ n : Byte, n ≠ 0x00#8 → ∃ why, decode (0b011#3 ++ n) = .error why) ∧
  (∀ s : State, ∃ v : Data, exec .rdacc s = .next { s with responses := s.responses ++ [.okData v] } ∧
    v.extractLsb' 0 8 = s.acc ∧ v.extractLsb' 8 24 = 0#24 ∧
    (s.Inv → s.cnt = 0 ∨ s.cnt = 3 ∨ s.cnt = 6 → v = 0x000000FF#32) ∧
    (s.Inv → s.cnt = 1 → ∀ b0, s.frame.read 0 = some b0 → v.extractLsb' 0 8 = crc8Byte 0xFF#8 b0) ∧
    (s.Inv → s.cnt = 4 → ∀ b3, s.frame.read 3 = some b3 → v.extractLsb' 0 8 = crc8Byte 0xFF#8 b3) ∧
    (s.Inv → s.cnt = 2 → ∀ b0 b1, s.frame.read 0 = some b0 → s.frame.read 1 = some b1 → v.extractLsb' 0 8 = checksum b0 b1) ∧
    (s.Inv → s.cnt = 5 → ∀ b3 b4, s.frame.read 3 = some b3 → s.frame.read 4 = some b4 → v.extractLsb' 0 8 = checksum b3 b4))

/-- R70: `DEC` in every state: FrameIncomplete is tested first, then CrcMismatch, then the counts are returned, and again when repeated;
in a state that meets the invariants it succeeds exactly when `VALID`. That the four bytes hold values is a premise only in states
that do not meet the invariants (log 4). -/
def Obligations.DecReturnsTheRawCounts : Prop :=
  encode .dec = 0x400#11 ∧
  (∀ s : State,
    (s.cnt ≠ 6 → exec .dec s = .next { s with responses := s.responses ++ [.err .frameIncomplete] }) ∧
    (s.cnt = 6 → s.mis = true → exec .dec s = .next { s with responses := s.responses ++ [.err .crcMismatch] }) ∧
    (∀ f0 f1 f3 f4 : Byte, s.cnt = 6 → s.mis = false → s.frame.read 0 = some f0 → s.frame.read 1 = some f1 →
      s.frame.read 3 = some f3 → s.frame.read 4 = some f4 →
      ∃ (v : Data) (t : State), exec .dec s = .next t ∧ t = { s with responses := s.responses ++ [.okData v] } ∧
        v.extractLsb' 16 16 = f0 ++ f1 ∧ v.extractLsb' 0 16 = f3 ++ f4 ∧
        exec .dec t = .next { t with responses := t.responses ++ [.okData v] }) ∧
    (s.Inv → (s.valid = true ↔ ∃ (v : Data) (t : State), exec .dec s = .next t ∧ t.responses = s.responses ++ [.okData v])))

/-- R71: `SER` in every state: the errors of `DEC` in the same order, the four bytes of a complete frame without mismatch, and in every
state the same response as `DEC`, bit for bit. -/
def Obligations.SerReturnsTheSerialNumber : Prop :=
  encode .ser = 0x500#11 ∧
  (∀ s : State,
    (s.cnt ≠ 6 → exec .ser s = .next { s with responses := s.responses ++ [.err .frameIncomplete] }) ∧
    (s.cnt = 6 → s.mis = true → exec .ser s = .next { s with responses := s.responses ++ [.err .crcMismatch] }) ∧
    (∀ f0 f1 f3 f4 : Byte, s.cnt = 6 → s.mis = false → s.frame.read 0 = some f0 → s.frame.read 1 = some f1 →
      s.frame.read 3 = some f3 → s.frame.read 4 = some f4 →
      ∃ v : Data, exec .ser s = .next { s with responses := s.responses ++ [.okData v] } ∧
        v.extractLsb' 24 8 = f0 ∧ v.extractLsb' 16 8 = f1 ∧ v.extractLsb' 8 8 = f3 ∧ v.extractLsb' 0 8 = f4) ∧
    exec .ser s = exec .dec s)

/-- The model's one fault (log 4): where `CNT = 6`, `MIS = 0` and one of the four data bytes holds no value, `DEC` and `SER` stop, naming
such a byte. -/
def Obligations.UnwrittenByteStopsDecAndSer : Prop :=
  ∀ s : State, s.cnt = 6 → s.mis = false →
    (s.frame.read 0 = none ∨ s.frame.read 1 = none ∨ s.frame.read 3 = none ∨ s.frame.read 4 = none) →
    ∃ i : Index, s.frame.read i = none ∧ exec .dec s = .fault (.unwrittenByte i) ∧ exec .ser s = .fault (.unwrittenByte i)

/-! Frames and rules about all operations. -/

/-- R31: `STAT`, `RDACC`, `DEC` and `SER` change nothing but the responses, every byte of the buffer included, and repeated at once they
give the same response. -/
def Obligations.ReadsChangeNothingAndRepeat : Prop :=
  ∀ (i : Instr) (s t : State), i = .stat ∨ i = .rdacc ∨ i = .dec ∨ i = .ser → exec i s = .next t →
    s.sameBlock t ∧ (∀ a : Nat, t.frame.read a = s.frame.read a) ∧ t.issued = s.issued ∧
    ∃ r, t.responses = s.responses ++ [r] ∧ exec i t = .next { t with responses := t.responses ++ [r] }

/-- R11 to R14, R27: the frame of `CLR` and `PUSH`. `CLR` writes no byte of the buffer; `PUSH` writes the byte at the address its phase
names (`phase`, the function its meaning uses, of `CNT` before the operation) and no other, and none when the frame is complete;
neither touches what the host is to issue. -/
def Obligations.ClearAndPushFrame : Prop :=
  (∀ s t : State, exec .clr s = .next t → (∀ a : Nat, t.frame.read a = s.frame.read a) ∧ t.issued = s.issued) ∧
  (∀ (b : Byte) (s t : State), exec (.push b) s = .next t →
    t.issued = s.issued ∧
    (∀ i : Index, phase s.cnt = .data i → t.mis = s.mis ∧ ∀ a : Nat, a ≠ i.val → t.frame.read a = s.frame.read a) ∧
    (∀ i : Index, phase s.cnt = .check i → ∀ a : Nat, a ≠ i.val → t.frame.read a = s.frame.read a) ∧
    (phase s.cnt = .complete → s.sameBlock t))

/-- R11, R12, R13, R14, R17: which events of the host can change each item of state, over all steps. -/
def Obligations.EachItemHasItsWriters : Prop :=
  ∀ s t : State, step s = .next t →
    (t.acc ≠ s.acc → ∃ rest, s.issued = .reset :: rest ∨ (∃ w, s.issued = .op w :: rest ∧
      (decode w = .ok .clr ∨ ∃ b, decode w = .ok (.push b)))) ∧
    (t.cnt ≠ s.cnt → ∃ rest, s.issued = .reset :: rest ∨ (∃ w, s.issued = .op w :: rest ∧
      (decode w = .ok .clr ∨ ∃ b, decode w = .ok (.push b) ∧ t.cnt.val = s.cnt.val + 1))) ∧
    (s.mis = false → t.mis = true → ∃ w rest b, s.issued = .op w :: rest ∧ decode w = .ok (.push b) ∧
      (s.cnt = 2 ∨ s.cnt = 5) ∧ b ≠ s.acc) ∧
    (s.mis = true → t.mis = false → ∃ rest, s.issued = .reset :: rest ∨ ∃ w, s.issued = .op w :: rest ∧ decode w = .ok .clr) ∧
    (t.frame ≠ s.frame → ∃ rest, s.issued = .reset :: rest ∨ ∃ w b, s.issued = .op w :: rest ∧ decode w = .ok (.push b))

/-- R45: every operation that answers gives exactly one response. -/
def Obligations.OneResponsePerOperation : Prop :=
  ∀ (i : Instr) (s t : State), exec i s = .next t → t.issued = s.issued ∧ ∃ r, t.responses = s.responses ++ [r]

/-- R77: an operation that raises an error, and a reserved word, leave `ACC`, `CNT`, `MIS` and `F` exactly as they were, and the next
operation runs as if the erring one had not been issued: it gives the same next state but for the error's response before its own. -/
def Obligations.ErrorsChangeNoState : Prop :=
  ∀ (s t : State) (w : OpWord) (rest : List HostEvent) (e : ErrorCode), s.issued = .op w :: rest → step s = .next t →
    t.responses = s.responses ++ [.err e] →
    s.sameBlock t ∧ t.issued = rest ∧
    (∀ (i : Instr) (u : State), exec i { s with issued := rest } = .next u →
      ∃ r, u.responses = s.responses ++ [r] ∧ exec i t = .next { u with responses := s.responses ++ [.err e, r] })

/-- R78: which operations raise each error and when, over all words and states, with the codes of the table. -/
def Obligations.ErrorTable : Prop :=
  (ErrorCode.crcMismatch.number = 1#4 ∧ ErrorCode.frameIncomplete.number = 2#4 ∧ ErrorCode.frameOverrun.number = 3#4 ∧
    ErrorCode.illegalOp.number = 4#4 ∧ ∀ r : Response, r.code.toNat < 5 ∧ (r.code = 0#4 ↔ ∀ e, r ≠ .err e)) ∧
  (∀ (s t : State) (w : OpWord) (rest : List HostEvent), s.issued = .op w :: rest → step s = .next t →
    (t.responses = s.responses ++ [.err .crcMismatch] ↔
      (decode w = .ok .dec ∨ decode w = .ok .ser) ∧ s.cnt = 6 ∧ s.mis = true) ∧
    (t.responses = s.responses ++ [.err .frameIncomplete] ↔ (decode w = .ok .dec ∨ decode w = .ok .ser) ∧ s.cnt ≠ 6) ∧
    (t.responses = s.responses ++ [.err .frameOverrun] ↔ (∃ b, decode w = .ok (.push b)) ∧ s.cnt = 6) ∧
    (t.responses = s.responses ++ [.err .illegalOp] ↔ ∃ why, decode w = .error why))

/-- R18: `VALID` and `CRC_ERR` are never both 1, both 0 while the frame is incomplete, and exactly one is 1 when it is complete; all
flags are 0 after reset. -/
def Obligations.ValidAndCrcErrExclude : Prop :=
  (∀ s : State, (s.done = true ↔ s.cnt = 6) ∧ (s.valid && s.crcErr) = false ∧
    (s.cnt ≠ 6 → s.valid = false ∧ s.crcErr = false) ∧ (s.cnt = 6 → s.valid = !s.mis ∧ s.crcErr = s.mis)) ∧
  State.reset.done = false ∧ State.reset.valid = false ∧ State.reset.crcErr = false

/-- R20: the views have no value unless `VALID`, and then `DEC` and `SER` raise an error; where it is 1 they are the bytes of the buffer,
and in a state that meets the invariants they have a value, which `DEC` and `SER` return. -/
def Obligations.ViewsHaveAValueOnlyWhenValid : Prop :=
  (∀ s : State, s.valid = false → s.rawT = none ∧ s.rawH = none ∧ s.serial = none ∧
    ∃ e, exec .dec s = .next { s with responses := s.responses ++ [.err e] } ∧
      exec .ser s = .next { s with responses := s.responses ++ [.err e] }) ∧
  (∀ (s : State) (f0 f1 f3 f4 : Byte), s.valid = true → s.frame.read 0 = some f0 → s.frame.read 1 = some f1 →
    s.frame.read 3 = some f3 → s.frame.read 4 = some f4 →
    s.rawT = some (f0 ++ f1) ∧ s.rawH = some (f3 ++ f4) ∧ s.serial = some (f0 ++ f1 ++ f3 ++ f4)) ∧
  (∀ s : State, s.Inv → s.valid = true → ∃ t h : RawCount, s.rawT = some t ∧ s.rawH = some h ∧ s.serial = some (t ++ h) ∧
    exec .dec s = .next { s with responses := s.responses ++ [.okData (t ++ h)] } ∧
    exec .ser s = .next { s with responses := s.responses ++ [.okData (t ++ h)] })

/-! Invariants. -/

/-- The canonical form of the frame buffer and R23 to R25 hold in the reset state. -/
def Obligations.ResetMeetsTheInvariants : Prop := State.reset.Inv

/-- R15, R23, R24, R25: every step keeps the invariants, from every state that meets them. -/
def Obligations.EveryStepKeepsTheInvariants : Prop :=
  ∀ s t : State, s.Inv → step s = .next t → t.Inv

/-- R25, R102: in a state that meets the invariants no step stops: every operation word, the reset event and an idle host have an
answer. -/
def Obligations.InvariantStatesAlwaysAnswer : Prop :=
  ∀ s : State, s.Inv → ∃ t, step s = .next t

/-- R24: in a complete frame `VALID` means that both checksums match. -/
def Obligations.ValidMeansBothChecksumsMatch : Prop :=
  ∀ (s : State) (f : Frame), s.Inv → s.cnt = 6 → (∀ i : Index, s.frame.read i = f.bytes[i.val]?) →
    (s.valid = true ↔ checksum f.tempMsb f.tempLsb = f.tempCrc ∧ checksum f.humMsb f.humLsb = f.humCrc)

/-- R23 to R25: the states that meet the invariants are those that have accepted some list of bytes. -/
def Obligations.InvariantsMeanAcceptedBytes : Prop :=
  ∀ s : State, s.Inv ↔ s.frame.wf = true ∧ ∃ bs : List Byte, s.Represents bs

/-! The block computes the functions. -/

/-- R25, R72, R73: served one event, a block that has accepted the bytes `bs` gives the response that is a function of `bs` alone
(through `checksum`, `decode` and `serial`) and has then accepted the bytes the event leaves. -/
def Obligations.EachEventAnswersFromAcceptedBytes : Prop :=
  ∀ (s : State) (bs : List Byte) (e : HostEvent), s.Represents bs →
    ∃ t, step (s.issueFirst e) = .next t ∧ t.Represents (acceptEvent bs e) ∧
      t.responses = s.responses ++ answerEvent bs e ∧ t.issued = s.issued

/-- R34, R72, R73: the same of every sequence of operation words and resets. -/
def Obligations.RunsAnswerFromAcceptedBytes : Prop :=
  ∀ (es : List HostEvent) (s : State) (bs : List Byte), s.Represents bs →
    ∃ t, runEvents es s = .next t ∧ t.Represents (acceptAll bs es) ∧
      t.responses = s.responses ++ answerAll bs es ∧ t.issued = s.issued

/-- R73, R92: after `CLR` or reset the responses to whatever follows do not depend on anything before, nor on which of the two it was, nor
on what the frame buffer holds. -/
def Obligations.ResponsesForgetThePast : Prop :=
  ∀ (s₁ s₂ : State) (es : List HostEvent),
    ∃ (t₁ t₂ u₁ u₂ : State) (rs : List Response),
      runEvents (.op 0x000#11 :: es) s₁ = .next t₁ ∧ runEvents (.op 0x000#11 :: es) s₂ = .next t₂ ∧
      runEvents (.reset :: es) s₁ = .next u₁ ∧ runEvents (.reset :: es) s₂ = .next u₂ ∧
      t₁.responses = s₁.responses ++ .ok :: rs ∧ t₂.responses = s₂.responses ++ .ok :: rs ∧
      u₁.responses = s₁.responses ++ rs ∧ u₂.responses = s₂.responses ++ rs

/-- R62: from any state `CLR; PUSH b0; PUSH b1; RDACC` serves the stand-alone checksum contract. -/
def Obligations.ChecksumSequenceReturnsTheChecksum : Prop :=
  ∀ (s : State) (b0 b1 : Byte), ∃ t, runEvents (asEvents (pseudoChecksum b0 b1)) s = .next t ∧
    t.responses = s.responses ++ [.ok, .ok, .ok, .okData ((checksum b0 b1).setWidth 32)] ∧
    t.cnt = 2 ∧ t.mis = false ∧ t.acc = checksum b0 b1 ∧ t.issued = s.issued

/-- R72: from any state the eight operations of `DECODE`, and those with `SER` in place of `DEC`, compute the functions `decode` and
`serial` of the six bytes, and leave the state the rule gives; reads and reserved words placed anywhere among them (`es` is what
follows the `CLR`, `rs` its responses, one to an event) change nothing of this: `CLR` and each of the six `PUSH` still answer `Ok`,
`DEC` and `SER` answer as before and the state left is the same. -/
def Obligations.DecodeSequenceComputesDecode : Prop :=
  (∀ (s : State) (f : Frame), ∃ t u,
    runEvents (asEvents (pseudoDecode f)) s = .next t ∧
    t.responses = s.responses ++ List.replicate 7 .ok ++ [decodeResponse f] ∧
    runEvents (asEvents (pseudoSerial f)) s = .next u ∧
    u.responses = s.responses ++ List.replicate 7 .ok ++ [serialResponse f] ∧
    t.acc = 0xFF#8 ∧ t.cnt = 6 ∧ (∀ i : Index, t.frame.read i = f.bytes[i.val]?) ∧ t.mis = !f.valid ∧ t.issued = s.issued ∧
    u.acc = 0xFF#8 ∧ u.cnt = 6 ∧ (∀ i : Index, u.frame.read i = f.bytes[i.val]?) ∧ u.mis = !f.valid ∧ u.issued = s.issued) ∧
  (∀ (s : State) (f : Frame) (es : List HostEvent), es.filter touchesBlock = asEvents (f.bytes.map .push) →
    ∃ (t : State) (rs : List Response), runEvents (.op 0x000#11 :: es) s = .next t ∧
      t.responses = s.responses ++ .ok :: rs ∧ rs.length = es.length ∧
      (∀ (k : Nat) (e : HostEvent), es[k]? = some e → touchesBlock e = true → rs[k]? = some .ok) ∧
      t.acc = 0xFF#8 ∧ t.cnt = 6 ∧ t.mis = !f.valid ∧ (∀ i : Index, t.frame.read i = f.bytes[i.val]?) ∧ t.issued = s.issued ∧
      exec .dec t = .next (t.respond (decodeResponse f)) ∧ exec .ser t = .next (t.respond (serialResponse f)))
end

