-- ==== Sys2Proof/Laws/Memory.lean ====
section
/-! SUPPORT. The frame buffer: reads after writes, and the canonical form that every write keeps. -/

namespace Sys2Proof.Machine

@[simp] theorem Memory.read_nil (i : Nat) : Memory.read [] i = none := rfl

/-- A read after a write to the same address gives the byte written. -/
@[simp] theorem Memory.read_write_same (m : Memory) (i : Nat) (b : Byte) : (m.write i b).read i = some b := by
  induction m with
  | nil => simp [Memory.write, Memory.read]
  | cons c rest ih =>
    obtain ⟨a, v⟩ := c
    simp only [Memory.write]
    split
    · simp [Memory.read]
    · split
      · simp [Memory.read]
      · simp only [Memory.read, ih]
        split
        · omega
        · rfl

/-- A write leaves every other address alone. -/
theorem Memory.read_write_other (m : Memory) {i j : Nat} (b : Byte) (h : j ≠ i) : (m.write i b).read j = m.read j := by
  induction m with
  | nil => simp [Memory.write, Memory.read, h.symm]
  | cons c rest ih =>
    obtain ⟨a, v⟩ := c
    simp only [Memory.write]
    split
    · simp [Memory.read, h.symm]
    · split
      · subst_vars
        simp [Memory.read, h.symm]
      · simp only [Memory.read, ih]

/-- What a write does to a read, in one equation. -/
theorem Memory.read_write (m : Memory) (i j : Nat) (b : Byte) :
    (m.write i b).read j = if j = i then some b else m.read j := by
  split
  · subst_vars; simp
  · exact Memory.read_write_other m b ‹_›

/-- The canonical form above a lower bound survives a write at or above it. -/
theorem Memory.wfFrom_write (m : Memory) : ∀ {lo i : Nat} (b : Byte),
    Memory.wfFrom lo m = true → lo ≤ i → i < 6 → Memory.wfFrom lo (m.write i b) = true := by
  induction m with
  | nil => intro lo i b _ hlo hi; simp [Memory.write, Memory.wfFrom, hlo, hi]
  | cons c rest ih =>
    obtain ⟨a, v⟩ := c
    intro lo i b hm hlo hi
    simp only [Memory.wfFrom, Bool.and_eq_true, decide_eq_true_eq] at hm
    obtain ⟨⟨hla, ha⟩, hr⟩ := hm
    simp only [Memory.write]
    split
    · rename_i hia
      have : i + 1 ≤ a := hia
      simp [Memory.wfFrom, hlo, hi, this, ha, hr]
    · split
      · subst_vars; simp [Memory.wfFrom, hlo, hi, hr]
      · simp only [Memory.wfFrom, Bool.and_eq_true, decide_eq_true_eq]
        exact ⟨⟨hla, ha⟩, ih b hr (by omega) hi⟩

/-- Every write to the frame buffer keeps the canonical form. -/
theorem Memory.wf_write (m : Memory) (i : Index) (b : Byte) (h : m.wf = true) : (m.write i b).wf = true :=
  Memory.wfFrom_write m b h (Nat.zero_le _) i.isLt

/-- The frame buffer after reset is in canonical form. -/
theorem Memory.wf_reset : State.reset.frame.wf = true := rfl

/-- In canonical form above a bound, nothing below the bound holds a value. -/
theorem Memory.read_below (m : Memory) : ∀ {lo i : Nat}, Memory.wfFrom lo m = true → i < lo → m.read i = none := by
  induction m with
  | nil => intros; rfl
  | cons c rest ih =>
    obtain ⟨a, v⟩ := c
    intro lo i hm hi
    simp only [Memory.wfFrom, Bool.and_eq_true, decide_eq_true_eq] at hm
    simp only [Memory.read]
    rw [if_neg (by omega)]
    exact ih hm.2 (by omega)

/-- Two frame buffers in canonical form that read alike everywhere are equal. -/
theorem Memory.ext_of_wfFrom (m : Memory) : ∀ {lo : Nat} {n : Memory}, Memory.wfFrom lo m = true → Memory.wfFrom lo n = true →
    (∀ i, m.read i = n.read i) → m = n := by
  induction m with
  | nil =>
    intro lo n _ _ h
    cases n with
    | nil => rfl
    | cons d _ => have := h d.1; simp [Memory.read] at this
  | cons c rest ih =>
    obtain ⟨a, v⟩ := c
    intro lo n hm hn h
    cases n with
    | nil => have := h a; simp [Memory.read] at this
    | cons d rest' =>
      obtain ⟨a', v'⟩ := d
      simp only [Memory.wfFrom, Bool.and_eq_true, decide_eq_true_eq] at hm hn
      have haa : a = a' := by
        rcases Nat.lt_trichotomy a a' with hlt | heq | hgt
        · have := h a
          simp only [Memory.read, if_true] at this
          rw [if_neg (by omega), Memory.read_below rest' hn.2 (by omega)] at this
          cases this
        · exact heq
        · have := h a'
          simp only [Memory.read, if_true] at this
          rw [if_neg (by omega), Memory.read_below rest hm.2 (by omega)] at this
          cases this
      subst haa
      have hv := h a
      simp only [Memory.read, if_true, Option.some.injEq] at hv
      subst hv
      have hrest : rest = rest' := ih hm.2 hn.2 fun i => by
        by_cases hi : i < a + 1
        · rw [Memory.read_below rest hm.2 hi, Memory.read_below rest' hn.2 hi]
        · have := h i
          simp only [Memory.read] at this
          rwa [if_neg (by omega), if_neg (by omega)] at this
      rw [hrest]

end Sys2Proof.Machine
end

