-- ==== Sys2Proof/Laws/State.lean ====
section
/-! SUPPORT. What each named update of the state does to each field. -/

namespace Sys2Proof.Machine

variable (s : State)

@[simp] theorem State.respond_acc (r : Response) : (s.respond r).acc = s.acc := rfl
@[simp] theorem State.respond_cnt (r : Response) : (s.respond r).cnt = s.cnt := rfl
@[simp] theorem State.respond_mis (r : Response) : (s.respond r).mis = s.mis := rfl
@[simp] theorem State.respond_frame (r : Response) : (s.respond r).frame = s.frame := rfl
@[simp] theorem State.respond_issued (r : Response) : (s.respond r).issued = s.issued := rfl
@[simp] theorem State.respond_responses (r : Response) : (s.respond r).responses = s.responses ++ [r] := rfl

@[simp] theorem State.startFrame_acc : (s.startFrame).acc = 0xFF#8 := rfl
@[simp] theorem State.startFrame_cnt : (s.startFrame).cnt = 0 := rfl
@[simp] theorem State.startFrame_mis : (s.startFrame).mis = false := rfl
@[simp] theorem State.startFrame_frame : (s.startFrame).frame = s.frame := rfl
@[simp] theorem State.startFrame_issued : (s.startFrame).issued = s.issued := rfl
@[simp] theorem State.startFrame_responses : (s.startFrame).responses = s.responses := rfl

@[simp] theorem State.storeByte_acc (i : Index) (b : Byte) : (s.storeByte i b).acc = s.acc := rfl
@[simp] theorem State.storeByte_cnt (i : Index) (b : Byte) : (s.storeByte i b).cnt = s.cnt := rfl
@[simp] theorem State.storeByte_mis (i : Index) (b : Byte) : (s.storeByte i b).mis = s.mis := rfl
@[simp] theorem State.storeByte_frame (i : Index) (b : Byte) : (s.storeByte i b).frame = s.frame.write i b := rfl
@[simp] theorem State.storeByte_issued (i : Index) (b : Byte) : (s.storeByte i b).issued = s.issued := rfl
@[simp] theorem State.storeByte_responses (i : Index) (b : Byte) : (s.storeByte i b).responses = s.responses := rfl

@[simp] theorem State.countByte_acc : (s.countByte).acc = s.acc := rfl
@[simp] theorem State.countByte_cnt : (s.countByte).cnt = s.cnt + 1 := rfl
@[simp] theorem State.countByte_mis : (s.countByte).mis = s.mis := rfl
@[simp] theorem State.countByte_frame : (s.countByte).frame = s.frame := rfl
@[simp] theorem State.countByte_issued : (s.countByte).issued = s.issued := rfl
@[simp] theorem State.countByte_responses : (s.countByte).responses = s.responses := rfl

@[simp] theorem State.foldByte_acc (b : Byte) : (s.foldByte b).acc = crc8Byte s.acc b := rfl
@[simp] theorem State.foldByte_cnt (b : Byte) : (s.foldByte b).cnt = s.cnt := rfl
@[simp] theorem State.foldByte_mis (b : Byte) : (s.foldByte b).mis = s.mis := rfl
@[simp] theorem State.foldByte_frame (b : Byte) : (s.foldByte b).frame = s.frame := rfl
@[simp] theorem State.foldByte_issued (b : Byte) : (s.foldByte b).issued = s.issued := rfl
@[simp] theorem State.foldByte_responses (b : Byte) : (s.foldByte b).responses = s.responses := rfl

@[simp] theorem State.checkByte_acc (b : Byte) : (s.checkByte b).acc = 0xFF#8 := rfl
@[simp] theorem State.checkByte_cnt (b : Byte) : (s.checkByte b).cnt = s.cnt := rfl
@[simp] theorem State.checkByte_mis (b : Byte) : (s.checkByte b).mis = (s.mis || b != s.acc) := rfl
@[simp] theorem State.checkByte_frame (b : Byte) : (s.checkByte b).frame = s.frame := rfl
@[simp] theorem State.checkByte_issued (b : Byte) : (s.checkByte b).issued = s.issued := rfl
@[simp] theorem State.checkByte_responses (b : Byte) : (s.checkByte b).responses = s.responses := rfl

@[simp] theorem State.issueFirst_acc (e : HostEvent) : (s.issueFirst e).acc = s.acc := rfl
@[simp] theorem State.issueFirst_cnt (e : HostEvent) : (s.issueFirst e).cnt = s.cnt := rfl
@[simp] theorem State.issueFirst_mis (e : HostEvent) : (s.issueFirst e).mis = s.mis := rfl
@[simp] theorem State.issueFirst_frame (e : HostEvent) : (s.issueFirst e).frame = s.frame := rfl
@[simp] theorem State.issueFirst_issued (e : HostEvent) : (s.issueFirst e).issued = e :: s.issued := rfl
@[simp] theorem State.issueFirst_responses (e : HostEvent) : (s.issueFirst e).responses = s.responses := rfl

@[simp] theorem State.issueAll_acc (es : List HostEvent) : (s.issueAll es).acc = s.acc := rfl
@[simp] theorem State.issueAll_cnt (es : List HostEvent) : (s.issueAll es).cnt = s.cnt := rfl
@[simp] theorem State.issueAll_mis (es : List HostEvent) : (s.issueAll es).mis = s.mis := rfl
@[simp] theorem State.issueAll_frame (es : List HostEvent) : (s.issueAll es).frame = s.frame := rfl
@[simp] theorem State.issueAll_issued (es : List HostEvent) : (s.issueAll es).issued = es ++ s.issued := rfl
@[simp] theorem State.issueAll_responses (es : List HostEvent) : (s.issueAll es).responses = s.responses := rfl

@[simp] theorem State.issueAll_nil : s.issueAll [] = s := rfl
@[simp] theorem State.issueAll_cons (e : HostEvent) (es : List HostEvent) :
    s.issueAll (e :: es) = (s.issueAll es).issueFirst e := rfl

end Sys2Proof.Machine
end

