-- ==== Sys2Proof/Laws/Ops.lean ====
section
/-! SUPPORT. What each shared operation can do, said once. -/

namespace Sys2Proof.Machine

/-- A phase with a byte to come names the address `CNT` (R16). -/
theorem phase_data_val {c : Count} {i : Index} (h : phase c = .data i) : i.val = c.val := by
  revert h; revert i; revert c; decide

theorem phase_check_val {c : Count} {i : Index} (h : phase c = .check i) : i.val = c.val := by
  revert h; revert i; revert c; decide

/-- The frame is complete exactly when `CNT = 6` (R16). -/
theorem phase_complete_iff {c : Count} : phase c = .complete ↔ c = 6 := by
  revert c; decide

/-- `CNT` advances by exactly 1 in every phase with a byte to come (R15, R17). -/
theorem count_succ_val {c : Count} (h : c ≠ 6) : (c + 1).val = c.val + 1 := by
  revert c; decide

/-- `raise` answers a next state with the error response and nothing else changed (R77). -/
theorem raise_eq (e : ErrorCode) (s : State) : raise e s = .next (s.respond (.err e)) := rfl

/-- A read of a frame byte: its value goes on, its absence is the only fault. -/
theorem loadByte_some {i : Index} {s : State} {b : Byte} (k : Byte → Result) (h : s.frame.read i = some b) :
    loadByte i s k = k b := by
  simp [loadByte, h]

theorem loadByte_none {i : Index} {s : State} (k : Byte → Result) (h : s.frame.read i = none) :
    loadByte i s k = .fault (.unwrittenByte i) := by
  simp [loadByte, h]

/-- `DEC` and `SER` on an incomplete frame (R80). -/
theorem collect_incomplete (pack : Byte → Byte → Byte → Byte → Data) {s : State} (h : s.cnt ≠ 6) :
    collect pack s = .next (s.respond (.err .frameIncomplete)) := by
  simp [collect, h, raise]

/-- `DEC` and `SER` on a complete frame with a mismatch (R79). -/
theorem collect_mismatch (pack : Byte → Byte → Byte → Byte → Data) {s : State} (h : s.cnt = 6) (hm : s.mis = true) :
    collect pack s = .next (s.respond (.err .crcMismatch)) := by
  simp [collect, h, hm, raise]

/-- `DEC` and `SER` on a complete frame without mismatch (R70, R71). -/
theorem collect_valid (pack : Byte → Byte → Byte → Byte → Data) {s : State} {f0 f1 f3 f4 : Byte} (h : s.cnt = 6)
    (hm : s.mis = false) (h0 : s.frame.read 0 = some f0) (h1 : s.frame.read 1 = some f1) (h3 : s.frame.read 3 = some f3)
    (h4 : s.frame.read 4 = some f4) : collect pack s = .next (s.respond (.okData (pack f0 f1 f3 f4))) := by
  have e0 : s.frame.read ((0 : Index) : Nat) = some f0 := h0
  have e1 : s.frame.read ((1 : Index) : Nat) = some f1 := h1
  have e3 : s.frame.read ((3 : Index) : Nat) = some f3 := h3
  have e4 : s.frame.read ((4 : Index) : Nat) = some f4 := h4
  simp only [collect, h, hm, ne_eq, not_true, if_false, Bool.false_eq_true]
  rw [loadByte_some _ e0, loadByte_some _ e1, loadByte_some _ e3, loadByte_some _ e4]
  rfl

/-- Whatever `DEC` or `SER` answers is one response and nothing else. -/
theorem collect_next {pack : Byte → Byte → Byte → Byte → Data} {s t : State} (h : collect pack s = .next t) :
    ∃ r, t = s.respond r := by
  have load : ∀ (i : Index) (k : Byte → Result), (∀ b, k b = .next t → ∃ r, t = s.respond r) →
      loadByte i s k = .next t → ∃ r, t = s.respond r := by
    intro i k hk hl
    unfold loadByte at hl
    split at hl
    · exact hk _ hl
    · cases hl
  unfold collect at h
  split at h
  · cases h; exact ⟨_, rfl⟩
  · split at h
    · cases h; exact ⟨_, rfl⟩
    · exact load 0 _ (fun _ => load 1 _ fun _ => load 3 _ fun _ => load 4 _ fun _ hr => by cases hr; exact ⟨_, rfl⟩) h

/-- A `PUSH` in a data phase (R68). -/
theorem execPush_data {s : State} {i : Index} (b : Byte) (h : phase s.cnt = .data i) :
    execPush b s = .next ((((s.foldByte b).storeByte i b).countByte).respond .ok) := by
  simp only [execPush, h, respondOk]

/-- A `PUSH` in a check phase (R68). -/
theorem execPush_check {s : State} {i : Index} (b : Byte) (h : phase s.cnt = .check i) :
    execPush b s = .next ((((s.checkByte b).storeByte i b).countByte).respond .ok) := by
  simp only [execPush, h, respondOk]

/-- A seventh `PUSH` (R81). -/
theorem execPush_overrun {s : State} (b : Byte) (h : s.cnt = 6) :
    execPush b s = .next (s.respond (.err .frameOverrun)) := by
  simp only [execPush, phase_complete_iff.mpr h, raise]

/-- Everything a `PUSH` can do. -/
theorem execPush_cases (b : Byte) (s : State) :
    (s.cnt = 6 ∧ execPush b s = .next (s.respond (.err .frameOverrun))) ∨
    (∃ i, phase s.cnt = .data i ∧ execPush b s = .next ((((s.foldByte b).storeByte i b).countByte).respond .ok)) ∨
    (∃ i, phase s.cnt = .check i ∧ execPush b s = .next ((((s.checkByte b).storeByte i b).countByte).respond .ok)) := by
  cases h : phase s.cnt with
  | complete => exact .inl ⟨phase_complete_iff.mp h, execPush_overrun b (phase_complete_iff.mp h)⟩
  | data i => exact .inr (.inl ⟨i, rfl, execPush_data b h⟩)
  | check i => exact .inr (.inr ⟨i, rfl, execPush_check b h⟩)

end Sys2Proof.Machine
end

