-- ==== Sys2Proof/Laws/PerInstr.lean ====
section
/-! SUPPORT. Statements about every instruction as syntax, one lemma per constructor. -/

namespace Sys2Proof.Laws.EncodesLegally

/-- The word of an operation is one of the 261 legal words of R42. -/
def Statement (i : Instr) : Prop := OpWord.legal (encode i) = true

theorem clr : Statement .clr := by unfold Statement; decide

theorem push (b : Byte) : Statement (.push b) := by
  have hopc : opcField (encode (.push b)) = 1#3 := by
    simp only [opcField, encode]
    exact BitVec.extractLsb'_append_eq_left
  simp [Statement, OpWord.legal, opcWellFormed, immWellFormed, hopc]

theorem stat : Statement .stat := by unfold Statement; decide

theorem rdacc : Statement .rdacc := by unfold Statement; decide

theorem dec : Statement .dec := by unfold Statement; decide

theorem ser : Statement .ser := by unfold Statement; decide

end Sys2Proof.Laws.EncodesLegally
end

