-- ==== Sys2Proof/Laws/Step.lean ====
section
/-! SUPPORT. One step by what the host issued next, and runs taken apart one event at a time. -/

namespace Sys2Proof.Machine

/-- With nothing issued a step holds the state. -/
theorem step_nothing_issued {s : State} (h : s.issued = []) : step s = .next s := by
  simp [step, State.nextEvent, h, holdState]

/-- A step that serves the reset event. -/
theorem step_reset {s : State} {rest : List HostEvent} (h : s.issued = .reset :: rest) :
    step s = .next { s with acc := 0xFF#8, cnt := 0, mis := false, frame := [], issued := rest } := by
  simp [step, State.nextEvent, h, applyReset, State.startFrame]

/-- A step that serves a reserved word. -/
theorem step_reserved {s : State} {w : OpWord} {why : Reserved} {rest : List HostEvent} (h : s.issued = .op w :: rest)
    (hd : decode w = .error why) : step s = .next (({ s with issued := rest } : State).respond (.err .illegalOp)) := by
  simp [step, State.nextEvent, h, hd, rejectReserved, raise]

/-- The state after the host issues `e` and then what it was going to issue is taken apart again by the next step. -/
@[simp] theorem nextEvent_issueFirst (e : HostEvent) (s : State) : (s.issueFirst e).nextEvent = some (e, s) := by
  cases s; rfl

@[simp] theorem runEvents_nil (s : State) : runEvents [] s = .next s := rfl

/-- A run of `k + 1` steps whose first answers a next state. -/
theorem run_succ_of_next {M : Host.Core} {s t : M.State} (k : Nat) (h : M.step s = .next t) : M.run (k + 1) s = M.run k t := by
  simp only [Host.Core.run, h]

/-- A run of `k + 1` steps whose first stops with a fault. -/
theorem run_succ_of_fault {M : Host.Core} {s : M.State} {r : M.Fault} (k : Nat) (h : M.step s = .fault r) :
    M.run (k + 1) s = .fault r := by
  simp only [Host.Core.run, h]

/-- A read passes along what the host is going to issue. -/
theorem loadByte_issueAll {i : Index} {s t : State} {k k' : Byte → Result} (es : List HostEvent)
    (hk : ∀ b, k b = .next t → k' b = .next (t.issueAll es)) (h : loadByte i s k = .next t) :
    loadByte i (s.issueAll es) k' = .next (t.issueAll es) := by
  unfold loadByte at h ⊢
  rw [State.issueAll_frame]
  cases hr : s.frame.read i with
  | some b => rw [hr] at h; exact hk b h
  | none => rw [hr] at h; cases h

/-- What the host is going to issue is passed along by whatever is issued before it: `DEC` and `SER`. -/
theorem collect_issueAll {pack : Byte → Byte → Byte → Byte → Data} {s t : State} (es : List HostEvent)
    (h : collect pack s = .next t) : collect pack (s.issueAll es) = .next (t.issueAll es) := by
  by_cases h6 : s.cnt = 6
  · cases hm : s.mis with
    | true =>
      rw [collect_mismatch pack h6 hm] at h
      cases h
      exact collect_mismatch pack h6 hm
    | false =>
      simp only [collect, State.issueAll_cnt, State.issueAll_mis, h6, hm, ne_eq, not_true, if_false, Bool.false_eq_true] at h ⊢
      exact loadByte_issueAll es (fun _ => loadByte_issueAll es fun _ => loadByte_issueAll es fun _ =>
        loadByte_issueAll es fun _ hr => by cases hr; rfl) h
  · rw [collect_incomplete pack h6] at h
    cases h
    exact collect_incomplete pack h6

/-- What the host is going to issue is passed along by whatever is issued before it: every operation. -/
theorem exec_issueAll {i : Instr} {s t : State} (es : List HostEvent) (h : exec i s = .next t) :
    exec i (s.issueAll es) = .next (t.issueAll es) := by
  cases i with
  | clr => cases h; rfl
  | push b =>
    simp only [exec, execPush, State.issueAll_cnt] at h ⊢
    split at h <;> (cases h; rfl)
  | stat => cases h; rfl
  | rdacc => cases h; rfl
  | dec => exact collect_issueAll es h
  | ser => exact collect_issueAll es h

/-- A step that serves `e` leaves what comes after `e` to be issued. -/
theorem step_issueAll {e : HostEvent} {s t : State} (es : List HostEvent) (h : step (s.issueFirst e) = .next t) :
    step ((s.issueAll es).issueFirst e) = .next (t.issueAll es) := by
  unfold step at h ⊢
  rw [nextEvent_issueFirst] at h ⊢
  cases e with
  | reset => cases h; rfl
  | op w =>
    cases hd : decode w with
    | ok i => simp only [hd] at h ⊢; exact exec_issueAll es h
    | error why => simp only [hd] at h ⊢; cases h; rfl

/-- A run takes its first event off: this, with the meaning of one event, unrolls every sequence of events. -/
theorem runEvents_of_step {e : HostEvent} {s t : State} (es : List HostEvent) (h : step (s.issueFirst e) = .next t) :
    runEvents (e :: es) s = runEvents es t := by
  exact run_succ_of_next (M := Sys2Proof.core) es.length (step_issueAll es h)

end Sys2Proof.Machine
end

