-- ==== Sys2Proof/Tests/Slice0.lean ====
section
/-! SUPPORT. Tests whose expected results are the spec's own (each names its source in spec/), and a witness for the hypotheses
of each statement that has some, per clause where there are several. -/

namespace Sys2Proof.Tests

open Sys2Proof.Machine

/-- The next state of an outcome. -/
def nextOf : Result → Option State
  | .next t => some t
  | .fault _ => none
  | .refused _ => none

/-- A state with nothing issued and nothing answered yet. -/
def st (acc : Byte) (cnt : Count) (mis : Bool) (frame : Memory) : State := ⟨acc, cnt, mis, frame, [], []⟩

/-- A state in which the host issues one event next. -/
def issuing (e : HostEvent) (s : State) : State := s.issueFirst e

/-- The frame of 95_test_vectors.md P1. -/
def p1Frame : Frame := ⟨0x66, 0x4C, 0xCE, 0x8C, 0x40, 0x2B⟩

/-- P1's buffer after `n` bytes. -/
def p1Cells (n : Nat) : Memory :=
  [((0 : Nat), (0x66#8 : Byte)), (1, 0x4C#8), (2, 0xCE#8), (3, 0x8C#8), (4, 0x40#8), (5, 0x2B#8)].take n

/-- P1 after row 7: complete and valid. -/
def complete : State := st 0xFF 6 false (p1Cells 6)

/-- P2 after row 9: complete with a mismatch. -/
def mismatched : State := st 0xFF 6 true [(0, 0x66), (1, 0x4C), (2, 0xCF), (3, 0x8C), (4, 0x40), (5, 0x2B)]

/-! Well-formed operation words (R41, R43): each check refuses an ill-formed word. -/

theorem test_word_too_wide : fitsOpWord 0x800 = false ∧ fitsOpWord 0x7FF = true := by decide
theorem test_reserved_opc_ill_formed :
    opcWellFormed 0x600 = false ∧ opcWellFormed 0x700 = false ∧ opcWellFormed 0x500 = true := by decide
theorem test_nonzero_imm_ill_formed :
    immWellFormed 0x001 = false ∧ immWellFormed 0x5FF = false ∧ immWellFormed 0x1FF = true := by decide
theorem test_legal_words : OpWord.legal 0x001 = false ∧ OpWord.legal 0x7FF = false ∧ OpWord.legal 0x1A5 = true := by decide

/-! Decoding: words written out bit by bit from R42 and V7. -/

theorem test_decode_clr : decode 0b00000000000#11 = .ok .clr := by decide
theorem test_decode_push : decode 0b00101100110#11 = .ok (.push 0x66) := by decide
theorem test_decode_push_ff : decode 0b00111111111#11 = .ok (.push 0xFF) := by decide
theorem test_decode_stat : decode 0b01000000000#11 = .ok .stat := by decide
theorem test_decode_rdacc : decode 0b01100000000#11 = .ok .rdacc := by decide
theorem test_decode_dec : decode 0b10000000000#11 = .ok .dec := by decide
theorem test_decode_ser : decode 0b10100000000#11 = .ok .ser := by decide
theorem test_decode_reserved : decode 0x6FF#11 = .error (.opcode 6) ∧ decode 0x700#11 = .error (.opcode 7) ∧
    decode 0x0FF#11 = .error (.immediate 0 0xFF) ∧ decode 0x380#11 = .error (.immediate 3 0x80) := by decide
theorem test_encode_words : [encode .clr, encode (.push 0xCE), encode .stat, encode .rdacc, encode .dec, encode .ser] =
    [0x000#11, 0x1CE#11, 0x200#11, 0x300#11, 0x400#11, 0x500#11] := by decide
theorem test_table_word : decodeTableWord 11 0x14C = some (.push 0x4C) ∧ decodeTableWord 16 0x500 = some .ser ∧
    decodeTableWord 16 0x401 = none ∧ decodeTableWord 16 0x900 = none := by decide

/-! One step each, with the numbers of 95_test_vectors.md V6 and P1 to P6. -/

theorem test_clr_mid_frame : (nextOf (exec .clr (st 0xC5 2 false (p1Cells 2)))).map (fun t => (t.acc, t.cnt, t.mis, t.frame)) =
    some (0xFF, 0, false, p1Cells 2) := by decide
theorem test_clr_responds : (nextOf (exec .clr mismatched)).map (·.responses) = some [.ok] := by decide
theorem test_push_data : (nextOf (exec (.push 0x66) (st 0xFF 0 false []))).map (fun t => (t.acc, t.cnt, t.mis, t.frame)) =
    some (0xB1, 1, false, [(0, 0x66)]) := by decide
theorem test_push_check_mismatch :
    (nextOf (exec (.push 0xCF) (st 0xCE 2 false (p1Cells 2)))).map (fun t => (t.acc, t.cnt, t.mis, t.frame.read 2)) =
    some (0xFF, 3, true, some 0xCF) := by decide
theorem test_push_check_keeps_mismatch :
    (nextOf (exec (.push 0x2B) (st 0x2B 5 true (p1Cells 5)))).map (fun t => (t.acc, t.cnt, t.mis)) =
    some (0xFF, 6, true) := by decide
theorem test_push_overrun : (nextOf (exec (.push 0x00) complete)).map (fun t => (t.cnt, t.frame, t.responses)) =
    some (6, p1Cells 6, [.err .frameOverrun]) := by decide
theorem test_stat_complete : (nextOf (exec .stat complete)).map (·.responses) = some [.okData 0x0000001E] := by decide
theorem test_stat_hides_mismatch :
    (nextOf (exec .stat (st 0xFF 3 true (p1Cells 3)))).map (·.responses) = some [.okData 0x00000003] := by decide
theorem test_rdacc : (nextOf (exec .rdacc (st 0x92 2 false []))).map (·.responses) = some [.okData 0x00000092] := by decide
theorem test_dec_counts : (nextOf (exec .dec complete)).map (·.responses) = some [.okData 0x664C8C40] := by decide
theorem test_dec_mismatch : (nextOf (exec .dec mismatched)).map (·.responses) = some [.err .crcMismatch] := by decide
theorem test_ser_number : (nextOf (exec .ser (st 0xFF 6 false [(0, 0x12), (1, 0x34), (2, 0x37), (3, 0x56), (4, 0x78), (5, 0x7D)]))).map
    (·.responses) = some [.okData 0x12345678] := by decide
theorem test_ser_incomplete_first :
    (nextOf (exec .ser (st 0xFF 3 true (p1Cells 3)))).map (·.responses) = some [.err .frameIncomplete] := by decide
theorem test_step_reserved : (nextOf (step (issuing (.op 0x2FF) complete))).map (fun t => (t.frame, t.issued, t.responses)) =
    some (p1Cells 6, [], [.err .illegalOp]) := by decide
theorem test_step_reset : (nextOf (step (issuing .reset mismatched))).map (fun t => (t.acc, t.cnt, t.mis, t.responses)) =
    some (0xFF, 0, false, []) := by decide
theorem test_step_idle : nextOf (step complete) = some complete := by decide
theorem test_first_word_after_reset :
    (nextOf (step (State.reset.withFetchWord 11 0x1BE))).map (fun t => (t.acc, t.cnt, t.responses)) = some (0x0C, 1, [.ok]) := by
  decide

/-! The checksum (V1, V2, R57, R60), the frame functions (V4), the views, response words (V9) and text (R46, R47). -/

theorem test_checksum_worked : checksum 0xBE 0xEF = 0x92 ∧ checksum 0x66 0x4C = 0xCE ∧ checksum 0x66 0x4D = 0xFF := by decide +kernel
theorem test_residue : crc8Seq [0xBE, 0xEF, 0x92] = 0x00 ∧ crc8Seq [0xBE, 0xEF, 0x93] = 0x31 := by decide +kernel
theorem test_table_spots : crcTable 0x41 = 0x0C ∧ crcTable 0xE3 = 0x92 ∧ crcTable 0xFF = 0xAC := by decide
theorem test_decode_frame : decodeFrame p1Frame = .ok (0x664C, 0x8C40) := by decide +kernel
theorem test_decode_frame_halves_swapped : decodeFrame ⟨0x66, 0x4C, 0x2B, 0x8C, 0x40, 0xCE⟩ = .error .crcMismatch := by decide +kernel
theorem test_frame_word : p1Frame.word = 0x664CCE8C402B#48 := by decide
theorem test_views : complete.rawT = some 0x664C ∧ complete.rawH = some 0x8C40 ∧ complete.serial = some 0x664C8C40 ∧
    mismatched.rawT = none := by decide
theorem test_response_word : (Response.okData 0x664C8C40).word 0 = 0x0664C8C40#36 := by decide
theorem test_error_codes : (Response.err .frameOverrun).code = 3 ∧ (Response.err .illegalOp).code = 4 := by decide
theorem test_parse_push : parseLine ['P', 'U', 'S', 'H', ' ', '0', 'x', 'C', 'E', ';', 'x'] = some [.push 0xCE] := by decide
theorem test_parse_checksum :
    parseLine (['C', 'H', 'E', 'C', 'K', 'S', 'U', 'M', ' '] ++ ['0', 'x', 'B', 'E', ' ', '0', 'x', 'E', 'F']) =
    some [.clr, .push 0xBE, .push 0xEF, .rdacc] := by decide
theorem test_parse_unknown : parseLine ['N', 'O', 'P'] = none := by decide

/-! Witnesses: concrete states and operands that meet the hypotheses of each statement. -/

/-- A byte string's buffer meets the invariants where it is complete and valid (used by every statement about `State.Inv`). -/
theorem witness_inv_complete : complete.Inv where
  wf := by decide
  held := by
    intro i _
    fin_cases i
    exacts [⟨0x66, rfl⟩, ⟨0x4C, rfl⟩, ⟨0xCE, rfl⟩, ⟨0x8C, rfl⟩, ⟨0x40, rfl⟩, ⟨0x2B, rfl⟩]
  acc := by
    refine ⟨fun _ => rfl, ?_, ?_, ?_, ?_⟩ <;> (intro h; exact absurd h (by decide))
  mis := by
    refine ⟨fun h => absurd h (by decide), ?_⟩
    rintro (⟨_, b0, b1, c, h0, h1, h2, h⟩ | ⟨_, b0, b1, c, h0, h1, h2, h⟩) <;>
      (cases h0; cases h1; cases h2; exact absurd (by decide +kernel) h)

/-- The invariants at the values of `CNT` that `RDACC`'s clauses name. -/
theorem witness_inv_after (n : Fin 3) : (st (accOf ((p1Frame.bytes).take n.val)) ⟨n.val, by omega⟩ false (p1Cells n.val)).Inv := by
  constructor
  · revert n; decide
  · intro i hi
    fin_cases n <;> fin_cases i <;> first
      | exact ⟨0x66, rfl⟩
      | exact ⟨0x4C, rfl⟩
      | exact absurd hi (by decide)
  · refine ⟨?_, ?_, ?_, ?_, ?_⟩ <;> fin_cases n <;> intro h <;> first
      | exact absurd h (by decide)
      | rfl
      | (intro b0 h0; cases h0; decide +kernel)
      | (intro b0 b1 h0 h1; cases h0; cases h1; decide +kernel)
  · refine ⟨fun h => absurd h (by simp [st]), ?_⟩
    rintro (⟨h3, _⟩ | ⟨h6, _⟩)
    · exact absurd h3 (by fin_cases n <;> decide)
    · exact absurd h6 (by fin_cases n <;> decide)

/-- The invariants with `CNT` at 4 and 5, for `RDACC`'s clauses on the second half. -/
theorem witness_inv_second_half (n : Fin 2) :
    (st (accOf ((p1Frame.bytes).take (4 + n.val))) ⟨4 + n.val, by omega⟩ false (p1Cells (4 + n.val))).Inv := by
  constructor
  · revert n; decide
  · intro i hi
    fin_cases n <;> fin_cases i <;> first
      | exact ⟨0x66, rfl⟩
      | exact ⟨0x4C, rfl⟩
      | exact ⟨0xCE, rfl⟩
      | exact ⟨0x8C, rfl⟩
      | exact ⟨0x40, rfl⟩
      | exact absurd hi (by decide)
  · refine ⟨?_, ?_, ?_, ?_, ?_⟩ <;> fin_cases n <;> intro h <;> first
      | exact absurd h (by decide)
      | (intro b0 h0; cases h0; decide +kernel)
      | (intro b0 b1 h0 h1; cases h0; cases h1; decide +kernel)
  · refine ⟨fun h => absurd h (by simp [st]), ?_⟩
    rintro (⟨_, b0, b1, c, h0, h1, h2, h⟩ | ⟨h6, _⟩)
    · fin_cases n <;> (cases h0; cases h1; cases h2; exact absurd (by decide +kernel) h)
    · exact absurd h6 (by fin_cases n <;> decide)

theorem witness_DecodedWordIsTheOnlyOne : decode 0x1FF#11 = .ok (.push 0xFF) := by decide
theorem witness_ReservedWordsRaiseIllegalOp :
    (issuing (.op 0x401) complete).issued = .op 0x401#11 :: [] ∧ decode 0x401#11 = .error (.immediate 4 1) := by decide
theorem witness_ResponseWordsMatchResponses : ((complete.respond .ok).responses)[0]? = some .ok := by decide
theorem witness_StepRunsTheDecodedOperation :
    (issuing (.op 0x400) complete).issued = .op 0x400#11 :: [] ∧ decode 0x400#11 = .ok .dec := by decide
theorem witness_StepHoldsAnIdleBlock : complete.issued = [] := by decide
theorem witness_StepServesTheResetEvent : (issuing .reset complete).issued = .reset :: [] := by decide
theorem witness_halves : halfPasses 0xBEEF92#24 = true ∧ halfPasses 0x664CCE#24 = true := by decide +kernel
theorem witness_FewBitAndOddErrorsDetected :
    halfPasses 0xBEEF92#24 = true ∧ weight 0x000001#24 = 1 ∧ weight 0x800003#24 = 3 ∧ weight 0x80001F#24 = 6 ∧
    weight 0x80000F#24 % 2 = 1 := by decide +kernel
theorem witness_BurstErrorsDetected : (0x81#8 : Byte) ≠ 0#8 ∧ (16 : Nat) ≤ 16 ∧ halfPasses 0x664CCE#24 = true := by decide +kernel
theorem witness_SingleBitDiffusion : (7 : Nat) < 8 ∧ (0 : Nat) < 8 := by decide
theorem witness_DecodeAcceptsExactlyValidFrames :
    p1Frame.valid = true ∧ checksum 0x00 0x00 ≠ 0x00#8 := by decide +kernel
theorem witness_SerialIsTheCountsSideBySide :
    decodeFrame p1Frame = .ok (0x664C, 0x8C40) ∧ decodeFrame ⟨0, 0, 0, 0, 0, 0⟩ = .error .crcMismatch := by decide +kernel
theorem witness_nonzero_imm : (0x01#8 : Byte) ≠ 0x00#8 := by decide
theorem witness_PushDeliversTheNextByte :
    ((st 0xFF 0 false []).cnt = 0 ∧ (st 0xFF 0 false []).cnt.val < 6) ∧ ((st 0x40 4 false []).cnt = 4) ∧
    ((st 0xCE 2 false []).cnt = 2 ∧ (0xCE#8 : Byte) = (st 0xCE 2 false []).acc) ∧
    ((st 0x2B 5 false []).cnt = 5 ∧ (0x2A#8 : Byte) ≠ (st 0x2B 5 false []).acc ∧ (st 0x2B 5 false []).cnt.val < 6) ∧
    complete.cnt = 6 := by decide
theorem witness_StatusFieldsAndValues :
    (st 0xFF 5 true []).cnt.val < 6 ∧ (complete.cnt = 6 ∧ complete.mis = false ∧ complete.valid = true) ∧
    (mismatched.cnt = 6 ∧ mismatched.mis = true ∧ mismatched.crcErr = true) := by decide
theorem witness_DecReturnsTheRawCounts :
    (st 0xFF 5 true []).cnt ≠ 6 ∧ (mismatched.cnt = 6 ∧ mismatched.mis = true) ∧
    (complete.cnt = 6 ∧ complete.mis = false ∧ complete.frame.read 0 = some 0x66 ∧ complete.frame.read 1 = some 0x4C ∧
      complete.frame.read 3 = some 0x8C ∧ complete.frame.read 4 = some 0x40) := by decide
theorem witness_SerReturnsTheSerialNumber :
    (st 0xFF 0 false []).cnt ≠ 6 ∧ (mismatched.cnt = 6 ∧ mismatched.mis = true) ∧
    (complete.cnt = 6 ∧ complete.mis = false ∧ complete.frame.read 0 = some 0x66 ∧ complete.frame.read 1 = some 0x4C ∧
      complete.frame.read 3 = some 0x8C ∧ complete.frame.read 4 = some 0x40) := by decide
theorem witness_UnwrittenByteStopsDecAndSer :
    (st 0xFF 6 false (p1Cells 4)).cnt = 6 ∧ (st 0xFF 6 false (p1Cells 4)).mis = false ∧
    (st 0xFF 6 false (p1Cells 4)).frame.read 4 = none ∧ (st 0xFF 6 false []).frame.read 0 = none := by decide
theorem witness_ReadsChangeNothingAndRepeat :
    exec .stat complete = .next (complete.respond (.okData 0x1E)) ∧ exec .rdacc complete = .next (complete.respond (.okData 0xFF)) ∧
    exec .dec complete = .next (complete.respond (.okData 0x664C8C40)) ∧
    exec .ser mismatched = .next (mismatched.respond (.err .crcMismatch)) := ⟨rfl, rfl, rfl, rfl⟩
theorem witness_ClearAndPushFrame :
    exec .clr complete = .next (complete.startFrame.respond .ok) ∧
    phase (st 0xFF 0 false []).cnt = .data 0 ∧ (nextOf (exec (.push 0x66) (st 0xFF 0 false []))).isSome ∧
    phase (st 0x2B 5 false []).cnt = .check 5 ∧ (nextOf (exec (.push 0x2B) (st 0x2B 5 false []))).isSome ∧
    phase complete.cnt = .complete ∧ (nextOf (exec (.push 0x00) complete)).isSome :=
  ⟨rfl, rfl, by decide, rfl, by decide, rfl, by decide⟩
/-- One witness per clause: `ACC` and `CNT` change, `MIS` rises at `CNT = 5`, `MIS` falls, the buffer changes. -/
theorem witness_EachItemHasItsWriters :
    (nextOf (step (issuing (.op 0x166) (st 0xFF 0 false [])))).map (fun t => (t.acc, t.cnt, t.frame)) =
      some (0xB1, 1, [(0, 0x66)]) ∧
    (nextOf (step (issuing (.op 0x12A) (st 0x2B 5 false [])))).map (·.mis) = some true ∧
    (nextOf (step (issuing (.op 0x000) mismatched))).map (·.mis) = some false := by decide
theorem witness_OneResponsePerOperation : exec .clr complete = .next (complete.startFrame.respond .ok) := rfl
theorem witness_ErrorsChangeNoState :
    (issuing (.op 0x100) complete).issued = .op 0x100#11 :: [] ∧
    step (issuing (.op 0x100) complete) = .next (complete.respond (.err .frameOverrun)) ∧
    (complete.respond (.err .frameOverrun)).responses = (issuing (.op 0x100) complete).responses ++ [.err .frameOverrun] ∧
    exec .dec complete = .next (complete.respond (.okData 0x664C8C40)) := ⟨rfl, rfl, rfl, rfl⟩
/-- One witness per row of R78's table. -/
theorem witness_ErrorTable :
    step (issuing (.op 0x400) mismatched) = .next (mismatched.respond (.err .crcMismatch)) ∧
    step (issuing (.op 0x500) (st 0xFF 5 true [])) = .next ((st 0xFF 5 true []).respond (.err .frameIncomplete)) ∧
    step (issuing (.op 0x1FF) complete) = .next (complete.respond (.err .frameOverrun)) ∧
    step (issuing (.op 0x7FF) complete) = .next (complete.respond (.err .illegalOp)) := ⟨rfl, rfl, rfl, rfl⟩
theorem witness_ValidAndCrcErrExclude : (st 0xFF 5 true []).cnt ≠ 6 ∧ complete.cnt = 6 := by decide
theorem witness_ViewsHaveAValueOnlyWhenValid : mismatched.valid = false ∧ complete.valid = true := by decide
theorem witness_ViewsHaveAValueOnlyWhenValid_inv : complete.Inv ∧ complete.valid = true := ⟨witness_inv_complete, by decide⟩
/-- The step that keeps the invariants, from a state that meets them: the host clears the frame. -/
theorem witness_EveryStepKeepsTheInvariants : complete.Inv ∧ step complete = .next complete := ⟨witness_inv_complete, rfl⟩
theorem witness_ValidMeansBothChecksumsMatch :
    complete.Inv ∧ complete.cnt = 6 ∧ ∀ i : Index, complete.frame.read i = p1Frame.bytes[i.val]? :=
  ⟨witness_inv_complete, by decide, by decide⟩
/-- States that represent the empty list and a whole frame. -/
theorem witness_represents : State.reset.Represents [] ∧ complete.Represents p1Frame.bytes :=
  ⟨⟨rfl, by simp, rfl, rfl⟩, ⟨rfl, by decide +kernel, by decide +kernel, by decide +kernel⟩⟩
/-- P1's frame with a `STAT`, a reserved word and an `RDACC` among its bytes. -/
theorem witness_DecodeSequenceComputesDecode :
    (asEvents [.stat, .push 0x66, .push 0x4C, .rdacc, .push 0xCE] ++ [HostEvent.op 0x7FF#11] ++
      asEvents [.push 0x8C, .push 0x40, .dec, .push 0x2B]).filter touchesBlock = asEvents (p1Frame.bytes.map .push) := by decide

end Sys2Proof.Tests
end

section
/-! PROOF. The step that serves a decodable word (00_scope.md R9, 20_memory.md R34). -/

namespace Sys2Proof.Machine

/-- What the host issued first is its next event, and the state without it differs in `issued` only. -/
theorem nextEvent_of_issued {s : State} {e : HostEvent} {rest : List HostEvent} (h : s.issued = e :: rest) :
    s.nextEvent = some (e, { s with issued := rest }) := by
  simp only [State.nextEvent, h]

/-- A step that serves a word which decodes: with `step_nothing_issued`, `step_reset` and `step_reserved`, every case of a step. -/
theorem step_decoded {s : State} {w : OpWord} {i : Instr} {rest : List HostEvent} (h : s.issued = .op w :: rest)
    (hd : decode w = .ok i) : step s = exec i { s with issued := rest } := by
  simp only [step, nextEvent_of_issued h, hd]

/-- Settles O12: the step takes the word the host issued first, and decoding it leaves `exec` as the step's only branch. -/
theorem stepRunsTheDecodedOperation : Obligations.StepRunsTheDecodedOperation := by
  intro s w i rest h hd
  exact step_decoded h hd

end Sys2Proof.Machine
end

section
/-! PROOF. The accepted bytes as the state holds them: the list functions of R23 and R24 as `PUSH` advances them, and the frame
six bytes make. -/

namespace Sys2Proof.Machine

/-- The data phases are those of `CNT` 0, 1, 3 and 4 (R16). -/
theorem val_of_phase_data {c : Count} {i : Index} (h : phase c = .data i) :
    c.val = 0 ∨ c.val = 1 ∨ c.val = 3 ∨ c.val = 4 := by
  revert h; revert i; revert c; decide

/-- The check phases are those of `CNT` 2 and 5 (R16). -/
theorem val_of_phase_check {c : Count} {i : Index} (h : phase c = .check i) : c.val = 2 ∨ c.val = 5 := by
  revert h; revert i; revert c; decide

/-- A data byte is folded into the checksum of its half. -/
theorem accOf_concat_data {bs : List Byte} (b : Byte)
    (h : bs.length = 0 ∨ bs.length = 1 ∨ bs.length = 3 ∨ bs.length = 4) : accOf (bs ++ [b]) = crc8Byte (accOf bs) b := by
  rcases h with h | h | h | h
  · match bs, h with | [], _ => rfl
  · match bs, h with | [_], _ => rfl
  · match bs, h with | [_, _, _], _ => rfl
  · match bs, h with | [_, _, _, _], _ => rfl

/-- A data byte is no mismatch. -/
theorem misOf_concat_data {bs : List Byte} (b : Byte)
    (h : bs.length = 0 ∨ bs.length = 1 ∨ bs.length = 3 ∨ bs.length = 4) : misOf (bs ++ [b]) = misOf bs := by
  rcases h with h | h | h | h
  · match bs, h with | [], _ => rfl
  · match bs, h with | [_], _ => rfl
  · match bs, h with | [_, _, _], _ => rfl
  · match bs, h with | [_, _, _, _], _ => rfl

/-- The checksum starts again after a check byte. -/
theorem accOf_concat_check {bs : List Byte} (b : Byte) (h : bs.length = 2 ∨ bs.length = 5) : accOf (bs ++ [b]) = 0xFF#8 := by
  rcases h with h | h
  · match bs, h with | [_, _], _ => rfl
  · match bs, h with | [_, _, _, _, _], _ => rfl

/-- A check byte is a mismatch exactly when it differs from the checksum so far, and an earlier mismatch stays. -/
theorem misOf_concat_check {bs : List Byte} (b : Byte) (h : bs.length = 2 ∨ bs.length = 5) :
    misOf (bs ++ [b]) = (misOf bs || b != accOf bs) := by
  rcases h with h | h
  · match bs, h with | [_, _], _ => exact bne_comm (α := Byte)
  · match bs, h with | [b0, b1, c, _, _], _ => exact congrArg (checksum b0 b1 != c || ·) (bne_comm (α := Byte))

/-- Fewer than six accepted bytes make no frame. -/
theorem frameOf_of_length_ne_six {bs : List Byte} (h : bs.length ≠ 6) : frameOf bs = none := by
  unfold frameOf
  split
  · exact absurd rfl h
  · rfl

/-- Six accepted bytes are the bytes of a frame. -/
theorem eq_bytes_of_length_six {bs : List Byte} (h : bs.length = 6) : ∃ f : Frame, bs = f.bytes := by
  match bs, h with | [f0, f1, f2, f3, f4, f5], _ => exact ⟨⟨f0, f1, f2, f3, f4, f5⟩, rfl⟩

@[simp] theorem frameOf_bytes (f : Frame) : frameOf f.bytes = some f := rfl

/-- Six accepted bytes without a mismatch are a valid frame (R63). -/
@[simp] theorem misOf_bytes (f : Frame) : misOf f.bytes = !f.valid := by
  simp [misOf, Frame.bytes, Frame.valid, Bool.not_and, bne]

/-- Valid means that both checksums match (R63). -/
theorem Frame.valid_iff (f : Frame) :
    f.valid = true ↔ checksum f.tempMsb f.tempLsb = f.tempCrc ∧ checksum f.humMsb f.humLsb = f.humCrc := by
  simp [Frame.valid]

end Sys2Proof.Machine
end

section
/-! PROOF. The flags, STATUS, the views and the operations that read them, as functions of `CNT` and `MIS` (10_state.md R18
to R20). -/

namespace Sys2Proof.Machine

theorem State.done_iff (s : State) : s.done = true ↔ s.cnt = 6 := by simp [State.done]

theorem State.valid_iff (s : State) : s.valid = true ↔ s.cnt = 6 ∧ s.mis = false := by simp [State.valid, State.done]

/-- The flags of an incomplete frame (R18). -/
theorem State.flags_incomplete {s : State} (h : s.cnt ≠ 6) : s.done = false ∧ s.valid = false ∧ s.crcErr = false := by
  simp [State.done, State.valid, State.crcErr, h]

/-- The flags of a complete frame (R18). -/
theorem State.flags_complete {s : State} (h : s.cnt = 6) : s.done = true ∧ s.valid = !s.mis ∧ s.crcErr = s.mis := by
  simp [State.done, State.valid, State.crcErr, h]

/-- STATUS is the count while the frame is incomplete, whatever `MIS` (R19). -/
theorem State.status_incomplete {s : State} (h : s.cnt ≠ 6) : s.status = BitVec.ofNat 8 s.cnt.val := by
  obtain ⟨hd, hv, hc⟩ := State.flags_incomplete h
  simp only [State.status, hd, hv, hc]
  generalize s.cnt = c
  revert c; decide

/-- STATUS of a complete frame (R19). -/
theorem State.status_complete {s : State} (h : s.cnt = 6) : s.status = if s.mis then 0x2E#8 else 0x1E#8 := by
  obtain ⟨hd, hv, hc⟩ := State.flags_complete h
  simp only [State.status, hd, hv, hc, h]
  cases s.mis <;> decide

/-- No view has a value unless `VALID` (R20). -/
theorem State.views_none {s : State} (h : s.valid = false) : s.rawT = none ∧ s.rawH = none ∧ s.serial = none := by
  simp [State.rawT, State.rawH, State.serial, h]

/-- When `VALID` the views are the bytes of the buffer (R20). -/
theorem State.views_some {s : State} {f0 f1 f3 f4 : Byte} (h : s.valid = true) (h0 : s.frame.read 0 = some f0)
    (h1 : s.frame.read 1 = some f1) (h3 : s.frame.read 3 = some f3) (h4 : s.frame.read 4 = some f4) :
    s.rawT = some (rawTemp f0 f1) ∧ s.rawH = some (rawHum f3 f4) ∧ s.serial = some (packSerial f0 f1 f3 f4) := by
  simp [State.rawT, State.rawH, State.serial, h, h0, h1, h3, h4]

/-- `SERIAL` and what `DEC` returns are the same bits (R20, R71). -/
theorem packSerial_eq_packCounts (f0 f1 f3 f4 : Byte) : packSerial f0 f1 f3 f4 = packCounts f0 f1 f3 f4 :=
  (BitVec.append_assoc (x₁ := f0) (x₂ := f1) (x₃ := f3 ++ f4)).symm

/-- `SERIAL` is the four data bytes in received order (R20). -/
theorem packSerial_eq_append (f0 f1 f3 f4 : Byte) : packSerial f0 f1 f3 f4 = f0 ++ f1 ++ f3 ++ f4 :=
  (packSerial_eq_packCounts f0 f1 f3 f4).trans (BitVec.append_assoc (x₁ := f0 ++ f1) (x₂ := f3) (x₃ := f4)).symm

/-- Unless `VALID`, `DEC` and `SER` answer one and the same error (R79, R80). -/
theorem collect_of_not_valid {s : State} (h : s.valid = false) :
    ∃ e, ∀ pack, collect pack s = .next (s.respond (.err e)) := by
  by_cases h6 : s.cnt = 6
  · have hm : s.mis = true := by simpa [State.valid, State.done, h6] using h
    exact ⟨_, fun pack => collect_mismatch pack h6 hm⟩
  · exact ⟨_, fun pack => collect_incomplete pack h6⟩

/-- `DEC` and `SER` on a complete frame without mismatch read the four data bytes in turn (R70, R71). -/
theorem collect_complete (pack : Byte → Byte → Byte → Byte → Data) {s : State} (h6 : s.cnt = 6) (hm : s.mis = false) :
    collect pack s = loadByte 0 s fun f0 => loadByte 1 s fun f1 => loadByte 3 s fun f3 => loadByte 4 s fun f4 =>
      respondData (pack f0 f1 f3 f4) s := by
  simp [collect, h6, hm]

/-- The first data byte without a value stops `DEC` and `SER` alike (log 4). -/
theorem collect_unwritten {s : State} (h6 : s.cnt = 6) (hm : s.mis = false)
    (h : s.frame.read 0 = none ∨ s.frame.read 1 = none ∨ s.frame.read 3 = none ∨ s.frame.read 4 = none) :
    ∃ i : Index, s.frame.read i = none ∧ ∀ pack, collect pack s = .fault (.unwrittenByte i) := by
  cases h0 : s.frame.read 0 with
  | none => exact ⟨0, h0, fun pack => by rw [collect_complete pack h6 hm, loadByte_none (i := 0) _ h0]⟩
  | some f0 =>
  cases h1 : s.frame.read 1 with
  | none =>
    exact ⟨1, h1, fun pack => by
      rw [collect_complete pack h6 hm, loadByte_some (i := 0) _ h0, loadByte_none (i := 1) _ h1]⟩
  | some f1 =>
  cases h3 : s.frame.read 3 with
  | none =>
    exact ⟨3, h3, fun pack => by
      rw [collect_complete pack h6 hm, loadByte_some (i := 0) _ h0, loadByte_some (i := 1) _ h1,
        loadByte_none (i := 3) _ h3]⟩
  | some f3 =>
    have h4 : s.frame.read 4 = none := by simpa [h0, h1, h3] using h
    exact ⟨4, h4, fun pack => by
      rw [collect_complete pack h6 hm, loadByte_some (i := 0) _ h0, loadByte_some (i := 1) _ h1,
        loadByte_some (i := 3) _ h3, loadByte_none (i := 4) _ h4]⟩

end Sys2Proof.Machine
end

section
/-! PROOF. Every event answers as a function of the accepted bytes (10_state.md R25; 41_framecodec.md R72, R73). -/

namespace Sys2Proof.Machine

/-- `o` answers a next state of the block that has accepted `bs`, with the responses `rs` added to those of `s` and the host's
further events left alone. -/
def AnswersFrom (s : State) (o : Result) (bs : List Byte) (rs : List Response) : Prop :=
  ∃ t, o = .next t ∧ t.Represents bs ∧ t.responses = s.responses ++ rs ∧ t.issued = s.issued

/-- Representing looks at the four items of the block only. -/
theorem State.Represents.of_sameBlock {s t : State} {bs : List Byte} (h : s.Represents bs) (hb : s.sameBlock t) :
    t.Represents bs := by
  obtain ⟨hacc, hcnt, hmis, hframe⟩ := hb
  exact ⟨hcnt ▸ h.cnt, hframe ▸ h.frame, hacc ▸ h.acc, hmis ▸ h.mis⟩

/-- A response changes none of the four items. -/
theorem sameBlock_respond (s : State) (r : Response) : s.sameBlock (s.respond r) := ⟨rfl, rfl, rfl, rfl⟩

/-- A block that starts a frame has accepted nothing, whatever its buffer holds (R26). -/
theorem represents_nil {s : State} (hacc : s.acc = 0xFF#8) (hcnt : s.cnt = 0) (hmis : s.mis = false) : s.Represents [] :=
  ⟨by simp [hcnt], by simp, hacc, hmis⟩

/-- One more byte, stored at the address `CNT` and counted, is one more accepted byte. -/
theorem State.Represents.concat {s t : State} {bs : List Byte} {b : Byte} {i : Index} (h : s.Represents bs)
    (hi : i.val = s.cnt.val) (hcnt : t.cnt = s.cnt + 1) (hframe : t.frame = s.frame.write i b)
    (hacc : t.acc = accOf (bs ++ [b])) (hmis : t.mis = misOf (bs ++ [b])) : t.Represents (bs ++ [b]) where
  cnt := by
    have h6 : s.cnt ≠ 6 := fun h6 => by have := i.isLt; simp [hi, h6] at this
    rw [hcnt, count_succ_val h6, List.length_append, h.cnt, List.length_singleton]
  frame j hj := by
    rw [hframe, Memory.read_write]
    split
    · subst_vars
      rw [hi, ← h.cnt, List.getElem?_concat_length]
    · have hlt : j < bs.length := by
        have := h.cnt
        simp only [List.length_append, List.length_singleton] at hj
        omega
      rw [h.frame j hlt, List.getElem?_append_left hlt]
  acc := hacc
  mis := hmis

/-- An operation that only responds leaves the accepted bytes as they are. -/
theorem answersFrom_respond {s : State} {bs : List Byte} (h : s.Represents bs) {o : Result} {r : Response}
    (ho : o = .next (s.respond r)) : AnswersFrom s o bs [r] :=
  ⟨_, ho, h.of_sameBlock (sameBlock_respond s r), rfl, rfl⟩

/-- `PUSH` accepts its byte, or refuses it beyond six (R68, R81). -/
theorem execPush_answersFrom {s : State} {bs : List Byte} (b : Byte) (h : s.Represents bs) :
    AnswersFrom s (execPush b s) (acceptOp bs (.push b)) [answerOf bs (.push b)] := by
  have hlen := h.cnt
  rcases execPush_cases b s with ⟨h6, he⟩ | ⟨i, hp, he⟩ | ⟨i, hp, he⟩
  · have hge : ¬ bs.length < 6 := by simp [hlen, h6]
    simp only [acceptOp, answerOf, if_neg hge]
    exact answersFrom_respond h he
  · have hi := phase_data_val hp
    have hd := hlen ▸ val_of_phase_data hp
    have hlt : bs.length < 6 := by omega
    simp only [acceptOp, answerOf, if_pos hlt]
    refine ⟨_, he, h.concat hi rfl rfl ?_ ?_, rfl, rfl⟩
    · rw [accOf_concat_data b hd, ← h.acc]; rfl
    · rw [misOf_concat_data b hd, ← h.mis]; rfl
  · have hi := phase_check_val hp
    have hc := hlen ▸ val_of_phase_check hp
    have hlt : bs.length < 6 := by omega
    simp only [acceptOp, answerOf, if_pos hlt]
    refine ⟨_, he, h.concat hi rfl rfl ?_ ?_, rfl, rfl⟩
    · rw [accOf_concat_check b hc]; rfl
    · rw [misOf_concat_check b hc, ← h.mis, ← h.acc]; rfl

/-- The state's STATUS is the one the accepted bytes give (R19). -/
theorem status_of_represents {s : State} {bs : List Byte} (h : s.Represents bs) : s.status = statusOf bs := by
  by_cases h6 : s.cnt = 6
  · obtain ⟨f, rfl⟩ := eq_bytes_of_length_six (h.cnt.trans (congrArg _ h6))
    rw [State.status_complete h6, h.mis, misOf_bytes]
    cases hv : f.valid <;> simp [statusOf, hv]
  · have hlen : bs.length ≠ 6 := fun hl => h6 (Fin.ext (h.cnt.symm.trans hl))
    rw [State.status_incomplete h6, statusOf, frameOf_of_length_ne_six hlen, h.cnt]

/-- The response of `DEC` and `SER` from the accepted bytes, by how they pack the four data bytes. -/
def collectAnswer (pack : Byte → Byte → Byte → Byte → Data) (bs : List Byte) : Response :=
  match frameOf bs with
  | none => .err .frameIncomplete
  | some f => if f.valid then .okData (pack f.tempMsb f.tempLsb f.humMsb f.humLsb) else .err .crcMismatch

theorem answerOf_dec (bs : List Byte) : answerOf bs .dec = collectAnswer packCounts bs := by
  simp only [answerOf, collectAnswer, decodeFrame]
  cases frameOf bs with
  | none => rfl
  | some f => by_cases hv : f.valid = true <;> simp [hv, packCounts]

theorem answerOf_ser (bs : List Byte) : answerOf bs .ser = collectAnswer packSerial bs := by
  simp only [answerOf, collectAnswer, serialFrame]
  cases frameOf bs with
  | none => rfl
  | some f => by_cases hv : f.valid = true <;> simp [hv]

/-- `DEC` and `SER` answer, and from the accepted bytes alone (R70, R71). -/
theorem collect_of_represents (pack : Byte → Byte → Byte → Byte → Data) {s : State} {bs : List Byte} (h : s.Represents bs) :
    collect pack s = .next (s.respond (collectAnswer pack bs)) := by
  by_cases h6 : s.cnt = 6
  · obtain ⟨f, rfl⟩ := eq_bytes_of_length_six (h.cnt.trans (congrArg _ h6))
    have hmis : s.mis = !f.valid := h.mis.trans (misOf_bytes f)
    have hread : ∀ i < 6, s.frame.read i = f.bytes[i]? := h.frame
    cases hv : f.valid with
    | false =>
      rw [collect_mismatch pack h6 (by simp [hmis, hv])]
      simp [collectAnswer, hv]
    | true =>
      rw [collect_valid pack h6 (by simp [hmis, hv]) (hread 0 (by decide)) (hread 1 (by decide)) (hread 3 (by decide))
        (hread 4 (by decide))]
      simp [collectAnswer, hv]
  · have hlen : bs.length ≠ 6 := fun hl => h6 (Fin.ext (h.cnt.symm.trans hl))
    rw [collect_incomplete pack h6, collectAnswer, frameOf_of_length_ne_six hlen]

/-- Every operation answers from the accepted bytes alone (R73). -/
theorem exec_answersFrom {s : State} {bs : List Byte} (i : Instr) (h : s.Represents bs) :
    AnswersFrom s (exec i s) (acceptOp bs i) [answerOf bs i] := by
  cases i with
  | clr => exact ⟨_, rfl, represents_nil rfl rfl rfl, rfl, rfl⟩
  | push b => exact execPush_answersFrom b h
  | stat =>
    refine answersFrom_respond h ?_
    rw [answerOf, ← status_of_represents h]; rfl
  | rdacc =>
    refine answersFrom_respond h ?_
    rw [answerOf, ← h.acc]; rfl
  | dec =>
    refine answersFrom_respond h ?_
    rw [answerOf_dec, ← collect_of_represents packCounts h]; rfl
  | ser =>
    refine answersFrom_respond h ?_
    rw [answerOf_ser, ← collect_of_represents packSerial h]; rfl

/-- Every event the host issues next is answered from the accepted bytes alone (R73, R92). -/
theorem step_answersFrom {s : State} {bs : List Byte} (e : HostEvent) (h : s.Represents bs) :
    AnswersFrom s (step (s.issueFirst e)) (acceptEvent bs e) (answerEvent bs e) := by
  cases e with
  | reset => exact ⟨_, step_reset rfl, represents_nil rfl rfl rfl, (List.append_nil _).symm, rfl⟩
  | op w =>
    cases hd : decode w with
    | ok i =>
      rw [step_decoded rfl hd]
      simp only [acceptEvent, answerEvent, hd]
      exact exec_answersFrom i h
    | error why =>
      rw [step_reserved rfl hd]
      simp only [acceptEvent, answerEvent, hd]
      exact answersFrom_respond h rfl

/-- Settles O51: the reset event starts again, a reserved word only responds, and every operation is `exec_answersFrom`. -/
theorem eachEventAnswersFromAcceptedBytes : Obligations.EachEventAnswersFromAcceptedBytes := by
  intro s bs e h
  exact step_answersFrom e h

end Sys2Proof.Machine
end

section
/-! PROOF. The invariants of R23 to R25 say that the state represents a list of accepted bytes. -/

namespace Sys2Proof.Machine

/-- The buffer holds `bs` below `CNT` (R25). -/
structure State.Holds (s : State) (bs : List Byte) : Prop where
  length : bs.length = s.cnt.val
  read : ∀ i, i < bs.length → s.frame.read i = bs[i]?

/-- The bytes below `CNT`. -/
def State.bytesBelowCount (s : State) : List Byte := (List.range s.cnt.val).map fun i => (s.frame.read i).getD 0#8

/-- R25 says that the buffer holds some list of `CNT` bytes. -/
theorem heldBelowCount_iff (s : State) : s.heldBelowCount ↔ ∃ bs, s.Holds bs := by
  constructor
  · intro h
    refine ⟨s.bytesBelowCount, by simp [State.bytesBelowCount], fun i hi => ?_⟩
    have hlt : i < s.cnt.val := by simpa [State.bytesBelowCount] using hi
    obtain ⟨b, hb⟩ := h ⟨i, by omega⟩ hlt
    have hb' : s.frame.read i = some b := hb
    simp [State.bytesBelowCount, hlt, hb']
  · rintro ⟨bs, hlen, hread⟩ i hi
    have hlt : i.val < bs.length := hlen ▸ hi
    exact ⟨bs[i.val], by rw [hread i hlt, List.getElem?_eq_getElem hlt]⟩

/-- The byte step from the initial value begins a checksum (R50). -/
theorem crc8Seq_singleton (b : Byte) : crc8Seq [b] = crc8Byte 0xFF#8 b := rfl

/-- R23 says that `ACC` is the checksum so far of the bytes held. -/
theorem accTracksFrame_iff {s : State} {bs : List Byte} (h : s.Holds bs) : s.accTracksFrame ↔ s.acc = accOf bs := by
  obtain ⟨hlen, hread⟩ := h
  match bs, hlen with
  | [], hlen => simp [State.accTracksFrame, Fin.ext_iff, ← hlen, accOf]
  | [_], hlen => simp [State.accTracksFrame, Fin.ext_iff, ← hlen, hread, accOf, crc8Seq_singleton]
  | [_, _], hlen => simp [State.accTracksFrame, Fin.ext_iff, ← hlen, hread, accOf]
  | [_, _, _], hlen => simp [State.accTracksFrame, Fin.ext_iff, ← hlen, accOf]
  | [_, _, _, _], hlen => simp [State.accTracksFrame, Fin.ext_iff, ← hlen, hread, accOf, crc8Seq_singleton]
  | [_, _, _, _, _], hlen => simp [State.accTracksFrame, Fin.ext_iff, ← hlen, hread, accOf]
  | [_, _, _, _, _, _], hlen => simp [State.accTracksFrame, Fin.ext_iff, ← hlen, accOf]
  | _ :: _ :: _ :: _ :: _ :: _ :: _ :: _, hlen => simp only [List.length_cons] at hlen; omega

/-- R24's condition, read of the bytes held. -/
theorem mismatch_iff_misOf {s : State} {bs : List Byte} (h : s.Holds bs) :
    (3 ≤ s.cnt.val ∧ s.halfMismatch 0 1 2) ∨ (s.cnt = 6 ∧ s.halfMismatch 3 4 5) ↔ misOf bs = true := by
  obtain ⟨hlen, hread⟩ := h
  match bs, hlen with
  | [], hlen => simp [Fin.ext_iff, ← hlen, misOf]
  | [_], hlen => simp [Fin.ext_iff, ← hlen, misOf]
  | [_, _], hlen => simp [Fin.ext_iff, ← hlen, misOf]
  | [_, _, _], hlen => simp [State.halfMismatch, Fin.ext_iff, ← hlen, hread, misOf]
  | [_, _, _, _], hlen => simp [State.halfMismatch, Fin.ext_iff, ← hlen, hread, misOf]
  | [_, _, _, _, _], hlen => simp [State.halfMismatch, Fin.ext_iff, ← hlen, hread, misOf]
  | [_, _, _, _, _, _], hlen => simp [State.halfMismatch, Fin.ext_iff, ← hlen, hread, misOf]
  | _ :: _ :: _ :: _ :: _ :: _ :: _ :: _, hlen => simp only [List.length_cons] at hlen; omega

/-- R24 says that `MIS` is whether a half held whole is mismatched. -/
theorem misTracksFrame_iff {s : State} {bs : List Byte} (h : s.Holds bs) : s.misTracksFrame ↔ s.mis = misOf bs := by
  rw [State.misTracksFrame, mismatch_iff_misOf h]
  exact Bool.eq_iff_iff.symm

/-- A state that holds `bs` represents it exactly when R23 and R24 hold. -/
theorem State.Holds.represents_iff {s : State} {bs : List Byte} (h : s.Holds bs) :
    s.Represents bs ↔ s.accTracksFrame ∧ s.misTracksFrame := by
  rw [accTracksFrame_iff h, misTracksFrame_iff h]
  exact ⟨fun hr => ⟨hr.acc, hr.mis⟩, fun ⟨hacc, hmis⟩ => ⟨h.length, h.read, hacc, hmis⟩⟩

/-- The invariants hold exactly where the buffer is canonical and the state represents some accepted bytes. -/
theorem inv_iff_represents (s : State) : s.Inv ↔ s.frame.wf = true ∧ ∃ bs : List Byte, s.Represents bs := by
  constructor
  · rintro ⟨hwf, hheld, hacc, hmis⟩
    obtain ⟨bs, hbs⟩ := (heldBelowCount_iff s).mp hheld
    exact ⟨hwf, bs, hbs.represents_iff.mpr ⟨hacc, hmis⟩⟩
  · rintro ⟨hwf, bs, hr⟩
    have hbs : s.Holds bs := ⟨hr.cnt, hr.frame⟩
    obtain ⟨hacc, hmis⟩ := hbs.represents_iff.mp hr
    exact ⟨hwf, (heldBelowCount_iff s).mpr ⟨bs, hbs⟩, hacc, hmis⟩

/-- Settles O50: R25 gives the list, and for the list held R23 and R24 are the two equations of `State.Represents`. -/
theorem invariantsMeanAcceptedBytes : Obligations.InvariantsMeanAcceptedBytes := inv_iff_represents

end Sys2Proof.Machine
end

section
/-! PROOF. What a step that answers can do, and the invariants along every step. -/

namespace Sys2Proof.Machine

/-- What a step that answers does to the block, by the event it served: nothing, or what reset, `CLR` or `PUSH` does (R17). -/
inductive StepChange (s t : State) : Prop
  /-- Nothing issued, a read, or an error response. -/
  | unchanged (h : s.sameBlock t)
  | reset (rest : List HostEvent) (hi : s.issued = .reset :: rest)
      (ht : t = { s with acc := 0xFF#8, cnt := 0, mis := false, frame := [], issued := rest })
  | clr (w : OpWord) (rest : List HostEvent) (hi : s.issued = .op w :: rest) (hd : decode w = .ok .clr)
      (ht : t = ({ s with issued := rest } : State).startFrame.respond .ok)
  | pushData (w : OpWord) (rest : List HostEvent) (b : Byte) (i : Index) (hi : s.issued = .op w :: rest)
      (hd : decode w = .ok (.push b)) (hp : phase s.cnt = .data i)
      (ht : t = ((({ s with issued := rest } : State).foldByte b).storeByte i b).countByte.respond .ok)
  | pushCheck (w : OpWord) (rest : List HostEvent) (b : Byte) (i : Index) (hi : s.issued = .op w :: rest)
      (hd : decode w = .ok (.push b)) (hp : phase s.cnt = .check i)
      (ht : t = ((({ s with issued := rest } : State).checkByte b).storeByte i b).countByte.respond .ok)

/-- A step that serves a decodable word does what its operation does. -/
theorem stepChange_of_exec {s t : State} {w : OpWord} {i : Instr} {rest : List HostEvent} (hi : s.issued = .op w :: rest)
    (hd : decode w = .ok i) (h : exec i { s with issued := rest } = .next t) : StepChange s t := by
  cases i with
  | clr => cases h; exact .clr w rest hi hd rfl
  | push b =>
    replace h : execPush b { s with issued := rest } = .next t := h
    rcases execPush_cases b { s with issued := rest } with ⟨-, he⟩ | ⟨i, hp, he⟩ | ⟨i, hp, he⟩
    · cases he.symm.trans h; exact .unchanged ⟨rfl, rfl, rfl, rfl⟩
    · cases he.symm.trans h; exact .pushData w rest b i hi hd hp rfl
    · cases he.symm.trans h; exact .pushCheck w rest b i hi hd hp rfl
  | stat => cases h; exact .unchanged ⟨rfl, rfl, rfl, rfl⟩
  | rdacc => cases h; exact .unchanged ⟨rfl, rfl, rfl, rfl⟩
  | dec => obtain ⟨r, rfl⟩ := collect_next h; exact .unchanged ⟨rfl, rfl, rfl, rfl⟩
  | ser => obtain ⟨r, rfl⟩ := collect_next h; exact .unchanged ⟨rfl, rfl, rfl, rfl⟩

/-- Every step that answers is one of these. -/
theorem stepChange_of_step {s t : State} (h : step s = .next t) : StepChange s t := by
  cases hi : s.issued with
  | nil => cases (step_nothing_issued hi).symm.trans h; exact .unchanged ⟨rfl, rfl, rfl, rfl⟩
  | cons e rest =>
    cases e with
    | reset => cases (step_reset hi).symm.trans h; exact .reset rest hi rfl
    | op w =>
      cases hd : decode w with
      | ok i => exact stepChange_of_exec hi hd ((step_decoded hi hd).symm.trans h)
      | error why => cases (step_reserved hi hd).symm.trans h; exact .unchanged ⟨rfl, rfl, rfl, rfl⟩

/-- Every step keeps the canonical form of the frame buffer (R27). -/
theorem step_keeps_wf {s t : State} (hwf : s.frame.wf = true) (h : step s = .next t) : t.frame.wf = true := by
  cases stepChange_of_step h with
  | unchanged hb => obtain ⟨-, -, -, hframe⟩ := hb; exact hframe ▸ hwf
  | reset rest hi ht => subst ht; rfl
  | clr w rest hi hd ht => subst ht; exact hwf
  | pushData w rest b i hi hd hp ht => subst ht; exact Memory.wf_write s.frame i b hwf
  | pushCheck w rest b i hi hd hp ht => subst ht; exact Memory.wf_write s.frame i b hwf

/-- A block that has accepted some bytes answers whatever the host issues, and has then accepted some bytes. -/
theorem step_represents {s : State} {bs : List Byte} (h : s.Represents bs) :
    ∃ t bs', step s = .next t ∧ t.Represents bs' := by
  cases hi : s.issued with
  | nil => exact ⟨s, bs, step_nothing_issued hi, h⟩
  | cons e rest =>
    have hs : s = ({ s with issued := rest } : State).issueFirst e := by cases s; cases hi; rfl
    obtain ⟨t, ht, hr, -, -⟩ := step_answersFrom e (h.of_sameBlock (t := { s with issued := rest }) ⟨rfl, rfl, rfl, rfl⟩)
    exact ⟨t, _, hs ▸ ht, hr⟩

/-- Settles O47: a state with the invariants represents some accepted bytes, and a step takes it to one that does. -/
theorem everyStepKeepsTheInvariants : Obligations.EveryStepKeepsTheInvariants := by
  intro s t hinv h
  obtain ⟨hwf, bs, hr⟩ := (inv_iff_represents s).mp hinv
  obtain ⟨t', bs', ht', hr'⟩ := step_represents hr
  cases ht'.symm.trans h
  exact (inv_iff_represents t).mpr ⟨step_keeps_wf hwf h, bs', hr'⟩

/-- Settles O48: a state with the invariants represents some accepted bytes, from which every step answers. -/
theorem invariantStatesAlwaysAnswer : Obligations.InvariantStatesAlwaysAnswer := by
  intro s hinv
  obtain ⟨-, bs, hr⟩ := (inv_iff_represents s).mp hinv
  obtain ⟨t, -, ht, -⟩ := step_represents hr
  exact ⟨t, ht⟩

/-- Settles O46: the reset state has accepted nothing. -/
theorem resetMeetsTheInvariants : Obligations.ResetMeetsTheInvariants :=
  (inv_iff_represents State.reset).mpr ⟨Memory.wf_reset, [], represents_nil rfl rfl rfl⟩

end Sys2Proof.Machine
end

section
/-! PROOF. Which events write each item of the state (10_state.md R11 to R14, R17). -/

namespace Sys2Proof.Machine

/-- Settles O39: the phase of `CNT` picks the branch of `PUSH`, whose one store is at the phase's address. -/
theorem clearAndPushFrame : Obligations.ClearAndPushFrame := by
  refine ⟨fun s t h => by cases h; exact ⟨fun _ => rfl, rfl⟩, fun b s t h => ?_⟩
  replace h : execPush b s = .next t := h
  rcases execPush_cases b s with ⟨h6, he⟩ | ⟨i, hp, he⟩ | ⟨i, hp, he⟩
  · cases he.symm.trans h
    have hp : phase s.cnt = .complete := phase_complete_iff.mpr h6
    exact ⟨rfl, by simp [hp], by simp [hp], fun _ => sameBlock_respond s _⟩
  · cases he.symm.trans h
    refine ⟨rfl, fun j hj => ?_, by simp [hp], by simp [hp]⟩
    cases hp.symm.trans hj
    exact ⟨rfl, fun a ha => Memory.read_write_other s.frame b ha⟩
  · cases he.symm.trans h
    refine ⟨rfl, by simp [hp], fun j hj => ?_, by simp [hp]⟩
    cases hp.symm.trans hj
    exact fun a ha => Memory.read_write_other s.frame b ha

/-- `CNT` is 2 or 5 in a check phase (R16). -/
theorem cnt_of_phase_check {c : Count} {i : Index} (h : phase c = .check i) : c = 2 ∨ c = 5 := by
  simpa [Fin.ext_iff] using val_of_phase_check h

/-- Below six bytes a byte is to come (R16). -/
theorem count_succ_of_phase_ne {c : Count} (h : phase c ≠ .complete) : (c + 1).val = c.val + 1 :=
  count_succ_val fun h6 => h (phase_complete_iff.mpr h6)

/-- Settles O40: the five changes of `StepChange`, read item by item. -/
theorem eachItemHasItsWriters : Obligations.EachItemHasItsWriters := by
  intro s t h
  cases stepChange_of_step h with
  | unchanged hb =>
    obtain ⟨hacc, hcnt, hmis, hframe⟩ := hb
    cases hm : s.mis <;> simp [hacc, hcnt, hmis, hframe, hm]
  | reset rest hi ht => subst ht; simp [hi]
  | clr w rest hi hd ht => subst ht; simp [hi, hd]
  | pushData w rest b i hi hd hp ht =>
    have hsucc : (s.cnt + 1).val = s.cnt.val + 1 := count_succ_of_phase_ne (by simp [hp])
    subst ht
    cases s.mis <;> simp [hi, hd, hsucc]
  | pushCheck w rest b i hi hd hp ht =>
    have hsucc : (s.cnt + 1).val = s.cnt.val + 1 := count_succ_of_phase_ne (by simp [hp])
    have hcnt := cnt_of_phase_check hp
    subst ht
    cases s.mis <;> simp [hi, hd, hsucc, hcnt]

end Sys2Proof.Machine
end

section
/-! PROOF. Flags, STATUS and views: the statements about R18 to R20, R24 and R26, and the model's one fault. -/

namespace Sys2Proof.Machine

/-- A state that starts a frame shows no flag, STATUS 0 and no view (R26). -/
theorem State.shows_nothing {s : State} (h : s.cnt = 0) :
    s.done = false ∧ s.valid = false ∧ s.crcErr = false ∧ s.status = 0x00#8 ∧
      s.rawT = none ∧ s.rawH = none ∧ s.serial = none := by
  have h6 : s.cnt ≠ 6 := by simp [h]
  obtain ⟨hd, hv, hc⟩ := State.flags_incomplete h6
  exact ⟨hd, hv, hc, by simp [State.status_incomplete h6, h], State.views_none hv⟩

/-- In a state that meets the invariants the data bytes of a complete frame hold values (R25). -/
theorem State.Inv.data_bytes {s : State} (h : s.Inv) (h6 : s.cnt = 6) : ∃ f0 f1 f3 f4, s.frame.read 0 = some f0 ∧
    s.frame.read 1 = some f1 ∧ s.frame.read 3 = some f3 ∧ s.frame.read 4 = some f4 := by
  have held : ∀ i : Index, ∃ b, s.frame.read i = some b := fun i => h.held i (by simp [h6])
  obtain ⟨f0, h0⟩ := held 0
  obtain ⟨f1, h1⟩ := held 1
  obtain ⟨f3, h3⟩ := held 3
  obtain ⟨f4, h4⟩ := held 4
  exact ⟨f0, f1, f3, f4, h0, h1, h3, h4⟩

/-- Settles O45: the views follow `VALID`, and where it is 1 `DEC` and `SER` return the bytes the invariants say are held. -/
theorem viewsHaveAValueOnlyWhenValid : Obligations.ViewsHaveAValueOnlyWhenValid := by
  refine ⟨fun s hv => ?_, fun s f0 f1 f3 f4 hv h0 h1 h3 h4 => ?_, fun s hinv hv => ?_⟩
  · obtain ⟨hT, hH, hS⟩ := State.views_none hv
    obtain ⟨e, he⟩ := collect_of_not_valid hv
    exact ⟨hT, hH, hS, e, he packCounts, he packSerial⟩
  · obtain ⟨hT, hH, hS⟩ := State.views_some hv h0 h1 h3 h4
    exact ⟨hT, hH, packSerial_eq_append f0 f1 f3 f4 ▸ hS⟩
  · obtain ⟨h6, hm⟩ := s.valid_iff.mp hv
    obtain ⟨f0, f1, f3, f4, h0, h1, h3, h4⟩ := hinv.data_bytes h6
    obtain ⟨hT, hH, hS⟩ := State.views_some hv h0 h1 h3 h4
    have hser := collect_valid packSerial h6 hm h0 h1 h3 h4
    rw [packSerial_eq_packCounts] at hS hser
    exact ⟨_, _, hT, hH, hS, collect_valid packCounts h6 hm h0 h1 h3 h4, hser⟩

/-- Settles O49: six bytes held make `MIS` the invalidity of their frame (R24, R63). -/
theorem validMeansBothChecksumsMatch : Obligations.ValidMeansBothChecksumsMatch := by
  intro s f hinv h6 hread
  have hbs : s.Holds f.bytes := ⟨by simp [h6, Frame.bytes], fun i hi => hread ⟨i, hi⟩⟩
  have hmis : s.mis = !f.valid := ((misTracksFrame_iff hbs).mp hinv.mis).trans (misOf_bytes f)
  rw [← f.valid_iff, s.valid_iff, hmis]
  simp [h6]

/-- Settles O15: both states start a frame. -/
theorem resetValuesAndValuesAfterClear : Obligations.ResetValuesAndValuesAfterClear :=
  ⟨⟨rfl, rfl, rfl, State.shows_nothing rfl⟩,
    fun s => ⟨s.startFrame.respond .ok, rfl, rfl, rfl, rfl, rfl, State.shows_nothing rfl⟩⟩

/-- The fields of STATUS are `CNT` and the three flags (R19). -/
theorem State.status_fields (s : State) : (s.status.extractLsb' 0 3).toNat = s.cnt.val ∧ s.status.getLsbD 3 = s.done ∧
    s.status.getLsbD 4 = s.valid ∧ s.status.getLsbD 5 = s.crcErr ∧ s.status.extractLsb' 6 2 = 0#2 := by
  unfold State.status
  generalize s.cnt = c, s.done = d, s.valid = v, s.crcErr = e
  revert c d v e; decide

/-- Settles O32: field by field from the layout, and the values by whether the frame is complete. -/
theorem statusFieldsAndValues : Obligations.StatusFieldsAndValues := by
  refine ⟨fun s => ?_, by decide⟩
  obtain ⟨hcnt, hdone, hvalid, hcrc, hzero⟩ := s.status_fields
  have hlt : s.cnt.val < 6 → s.cnt ≠ 6 := fun h h6 => by simp [h6] at h
  exact ⟨hcnt, hdone, hvalid, hcrc, hzero, fun h => State.status_incomplete (hlt h),
    fun h hm => by simp [State.status_complete h, hm], fun h hm => by simp [State.status_complete h, hm], rfl⟩

/-- Settles O37: the first data byte without a value is the one named. -/
theorem unwrittenByteStopsDecAndSer : Obligations.UnwrittenByteStopsDecAndSer := by
  intro s h6 hm h
  obtain ⟨i, hi, he⟩ := collect_unwritten h6 hm h
  exact ⟨i, hi, he packCounts, he packSerial⟩

/-- Settles O44: the flags of an incomplete and of a complete frame. -/
theorem validAndCrcErrExclude : Obligations.ValidAndCrcErrExclude := by
  refine ⟨fun s => ⟨s.done_iff, ?_, fun h => ?_, fun h => ?_⟩, rfl, rfl, rfl⟩
  · cases hm : s.mis <;> simp [State.valid, State.crcErr, hm]
  · obtain ⟨-, hv, hc⟩ := State.flags_incomplete h
    exact ⟨hv, hc⟩
  · obtain ⟨-, hv, hc⟩ := State.flags_complete h
    exact ⟨hv, hc⟩

end Sys2Proof.Machine
end

section
/-! PROOF. Every run answers as a function of the accepted bytes (20_memory.md R34; 41_framecodec.md R72, R73). -/

namespace Sys2Proof.Machine

/-- Two answers one after the other are one answer, with the responses of both. -/
theorem AnswersFrom.trans {s t : State} {o : Result} {bs : List Byte} {rs rs' : List Response}
    (ht : t.responses = s.responses ++ rs) (hi : t.issued = s.issued) (h : AnswersFrom t o bs rs') :
    AnswersFrom s o bs (rs ++ rs') := by
  obtain ⟨u, ho, hu, hresp, hiss⟩ := h
  exact ⟨u, ho, hu, by rw [hresp, ht, List.append_assoc], hiss.trans hi⟩

/-- Every sequence of events is answered from the accepted bytes alone: its first event is one step, after which the rest is
answered from the bytes that event leaves. -/
theorem runEvents_answersFrom (es : List HostEvent) {s : State} {bs : List Byte} (h : s.Represents bs) :
    AnswersFrom s (runEvents es s) (acceptAll bs es) (answerAll bs es) := by
  induction es generalizing s bs with
  | nil => exact ⟨s, runEvents_nil s, h, (List.append_nil _).symm, rfl⟩
  | cons e es ih =>
    obtain ⟨t, hstep, ht, hresp, hiss⟩ := step_answersFrom e h
    rw [runEvents_of_step es hstep]
    exact AnswersFrom.trans hresp hiss (ih ht)

/-- Settles O52, by induction on the events (`runEvents_answersFrom`). -/
theorem runsAnswerFromAcceptedBytes : Obligations.RunsAnswerFromAcceptedBytes := by
  intro es s bs h
  exact runEvents_answersFrom es h

end Sys2Proof.Machine
end

section
/-! PROOF. The four reads answer from the block alone and leave it alone (20_memory.md R31). -/

namespace Sys2Proof.Machine

/-- Where `DEC` or `SER` answers, it gives the same response from every state with the same block: the first test that decides it,
or the four data bytes, are the same there. -/
theorem collect_of_sameBlock {pack : Byte → Byte → Byte → Byte → Data} {s t : State} (h : collect pack s = .next t) :
    ∃ r, ∀ u, s.sameBlock u → collect pack u = .next (u.respond r) := by
  by_cases h6 : s.cnt = 6
  case neg => exact ⟨_, fun u ⟨_, hcnt, _, _⟩ => collect_incomplete pack (hcnt ▸ h6)⟩
  cases hm : s.mis with
  | true => exact ⟨_, fun u ⟨_, hcnt, hmis, _⟩ => collect_mismatch pack (hcnt.trans h6) (hmis.trans hm)⟩
  | false =>
    have held : ¬ (s.frame.read 0 = none ∨ s.frame.read 1 = none ∨ s.frame.read 3 = none ∨ s.frame.read 4 = none) := by
      intro hnone
      obtain ⟨i, -, hfault⟩ := collect_unwritten h6 hm hnone
      cases (hfault pack).symm.trans h
    simp only [not_or, ← ne_eq, Option.ne_none_iff_exists'] at held
    obtain ⟨⟨f0, h0⟩, ⟨f1, h1⟩, ⟨f3, h3⟩, ⟨f4, h4⟩⟩ := held
    exact ⟨_, fun u ⟨_, hcnt, hmis, hframe⟩ => collect_valid pack (hcnt.trans h6) (hmis.trans hm)
      (hframe ▸ h0) (hframe ▸ h1) (hframe ▸ h3) (hframe ▸ h4)⟩

/-- Where one of the four reads answers, it adds the same one response to every state with the same block. -/
theorem exec_read_of_sameBlock {i : Instr} {s t : State} (hi : i = .stat ∨ i = .rdacc ∨ i = .dec ∨ i = .ser)
    (h : exec i s = .next t) : ∃ r, ∀ u, s.sameBlock u → exec i u = .next (u.respond r) := by
  rcases hi with rfl | rfl | rfl | rfl
  · refine ⟨.okData (zext32 s.status), fun u ⟨_, hcnt, hmis, _⟩ => ?_⟩
    have hstatus : u.status = s.status := by simp only [State.status, State.done, State.valid, State.crcErr, hcnt, hmis]
    rw [← hstatus]; rfl
  · refine ⟨.okData (zext32 s.acc), fun u ⟨hacc, _, _, _⟩ => ?_⟩
    rw [← hacc]; rfl
  · exact collect_of_sameBlock h
  · exact collect_of_sameBlock h

/-- Settles O38: the response is the same from `s` and from the state the read leaves, whose block is that of `s`. -/
theorem readsChangeNothingAndRepeat : Obligations.ReadsChangeNothingAndRepeat := by
  intro i s t hi h
  obtain ⟨r, hr⟩ := exec_read_of_sameBlock hi h
  cases h.symm.trans (hr s ⟨rfl, rfl, rfl, rfl⟩)
  have hb : s.sameBlock (s.respond r) := sameBlock_respond s r
  exact ⟨hb, fun _ => rfl, rfl, r, rfl, hr _ hb⟩

end Sys2Proof.Machine
end

section
/-! PROOF. The operation word: its two fields, and the decoder as the inverse of the encoder (30_encoding.md R41 to R44). -/

namespace Sys2Proof

@[simp] theorem opcField_append (o : BitVec 3) (b : Byte) : opcField (o ++ b) = o :=
  BitVec.extractLsb'_append_eq_left

@[simp] theorem immField_append (o : BitVec 3) (b : Byte) : immField (o ++ b) = b :=
  BitVec.extractLsb'_append_eq_right

/-- A word is its two fields (R41). -/
theorem opcField_append_immField (w : OpWord) : opcField w ++ immField w = w :=
  BitVec.extractLsb'_append_extractLsb'

/-- The fields of a word determine it, `opc` as the number the decoder branches on. -/
theorem append_eq_of_fields {w : OpWord} {o : BitVec 3} {b : Byte} (hopc : (opcField w).toNat = o.toNat)
    (himm : immField w = b) : o ++ b = w := by
  rw [← BitVec.eq_of_toNat_eq hopc, ← himm]
  exact opcField_append_immField w

theorem decodePlain_eq_ok_iff {i j : Instr} {w : OpWord} : decodePlain i w = .ok j ↔ immField w = 0#8 ∧ i = j := by
  by_cases h : immField w = 0#8 <;> simp [decodePlain, h]

theorem exists_decodePlain_eq_error_iff {i : Instr} {w : OpWord} :
    (∃ why, decodePlain i w = .error why) ↔ immField w ≠ 0#8 := by
  by_cases h : immField w = 0#8 <;> simp [decodePlain, h]

/-- The decoder reads the word of an operation as that operation (R42). -/
theorem decode_encode (i : Instr) : decode (encode i) = .ok i := by
  cases i with
  | push b => simp [decode, encode]
  | clr => rfl
  | stat => rfl
  | rdacc => rfl
  | dec => rfl
  | ser => rfl

/-- A word that decodes is the word of its operation (R42, R43). -/
theorem encode_of_decode {w : OpWord} {i : Instr} (h : decode w = .ok i) : encode i = w := by
  unfold decode at h
  split at h
  case h_2 hopc => cases h; exact append_eq_of_fields hopc rfl
  case h_7 => cases h
  all_goals
    rename_i hopc
    obtain ⟨himm, rfl⟩ := decodePlain_eq_ok_iff.mp h
    exact append_eq_of_fields hopc himm

/-- Decoding and encoding are inverse to each other. -/
theorem decode_eq_ok_iff {w : OpWord} {i : Instr} : decode w = .ok i ↔ encode i = w :=
  ⟨encode_of_decode, fun h => h ▸ decode_encode i⟩

/-- Settles O1: the fields of the word select the branch of its operation. -/
theorem decodeReadsBackEncode : Obligations.DecodeReadsBackEncode := decode_encode

/-- Settles O2: each branch of the decoder fixes both fields of the word. -/
theorem decodedWordIsTheOnlyOne : Obligations.DecodedWordIsTheOnlyOne := fun _ _ => encode_of_decode

/-- Settles O6: each word is, bit for bit, the word of the operation named. -/
theorem wordsOfTheSpecDecode : Obligations.WordsOfTheSpecDecode :=
  ⟨decode_encode .clr, decode_encode (.push 0x00#8), decode_encode (.push 0xFF#8), decode_encode (.push 0xA5#8),
    decode_encode .stat, decode_encode .rdacc, decode_encode .dec, decode_encode .ser⟩

end Sys2Proof
end

section
/-! PROOF. The legal words are the words of the 261 operations (30_encoding.md R42). -/

namespace Sys2Proof

/-- The numbers of `n` bits, in rising order. -/
def numbersOfWidth (n : Nat) : List (BitVec n) := (List.range (2 ^ n)).map (BitVec.ofNat n)

theorem mem_numbersOfWidth {n : Nat} (v : BitVec n) : v ∈ numbersOfWidth n :=
  List.mem_map.mpr ⟨v.toNat, List.mem_range.mpr v.isLt, by simp⟩

theorem nodup_numbersOfWidth (n : Nat) : (numbersOfWidth n).Nodup := by
  refine List.nodup_range.map_on fun k hk l hl h => ?_
  have h := congrArg BitVec.toNat h
  rwa [BitVec.toNat_ofNat, BitVec.toNat_ofNat, Nat.mod_eq_of_lt (List.mem_range.mp hk),
    Nat.mod_eq_of_lt (List.mem_range.mp hl)] at h

/-- Five operations without operand, and `PUSH` with each byte. -/
def operations : List Instr := [.clr, .stat, .rdacc, .dec, .ser] ++ (numbersOfWidth 8).map .push

theorem length_operations : operations.length = 261 := by
  simp [operations, numbersOfWidth]

theorem mem_operations (i : Instr) : i ∈ operations := by
  cases i <;> simp [operations, mem_numbersOfWidth]

theorem nodup_operations : operations.Nodup := by
  have hpush : ((numbersOfWidth 8).map Instr.push).Nodup :=
    (nodup_numbersOfWidth 8).map fun _ _ h => Instr.push.inj h
  simp [operations, hpush]

theorem encode_injective : Function.Injective encode := fun i j h =>
  Except.ok.inj ((decode_encode i).symm.trans (h ▸ decode_encode j))

theorem isOk_decode_iff {w : OpWord} : (decode w).isOk = true ↔ ∃ i, encode i = w := by
  simp only [← decode_eq_ok_iff]
  cases decode w <;> simp [Except.isOk, Except.toBool]

/-- The words that decode are the words of the operations. -/
theorem filter_isOk_perm_operations :
    ((numbersOfWidth 11).filter fun w => (decode w).isOk).Perm (operations.map encode) := by
  refine (List.perm_ext_iff_of_nodup ((nodup_numbersOfWidth 11).filter _)
    (nodup_operations.map encode_injective)).mpr fun w => ?_
  simp [mem_numbersOfWidth, isOk_decode_iff, mem_operations]

/-- Settles O5: counting the words that decode counts the operations. -/
theorem legalWordsNumber261 : Obligations.LegalWordsNumber261 := by
  have h2048 : 2048 = 2 ^ 11 := rfl
  calc (List.range 2048).countP (fun n => (decode (BitVec.ofNat 11 n)).isOk)
      = (numbersOfWidth 11).countP fun w => (decode w).isOk := by rw [h2048, numbersOfWidth, List.countP_map]; rfl
    _ = ((numbersOfWidth 11).filter fun w => (decode w).isOk).length := List.countP_eq_length_filter
    _ = (operations.map encode).length := filter_isOk_perm_operations.length_eq
    _ = 261 := by rw [List.length_map, length_operations]

end Sys2Proof
end

section
/-! PROOF. The decoder as R42's `match` and `mask` table, and the reserved words (30_encoding.md R42, R43). -/

namespace Sys2Proof

/-- A row without operand is selected by the one word of its operation. -/
theorem selects_plain_row {i : Instr} {w : OpWord} :
    OpcodeRow.selects ⟨encode i, 0x7FF#11, fun _ => i⟩ w = true ↔ encode i = w := by
  have hmask : w &&& 0x7FF#11 = w := BitVec.and_allOnes
  rw [OpcodeRow.selects, hmask, beq_iff_eq, eq_comm]

/-- The mask of `PUSH` keeps the `opc` field. -/
theorem and_opc_mask (w : OpWord) : w &&& 0x700#11 = opcField w ++ 0#8 := by
  calc w &&& 0x700#11
      = (opcField w ++ immField w) &&& (BitVec.allOnes 3 ++ 0#8) := by rw [opcField_append_immField]; rfl
    _ = opcField w ++ 0#8 := by rw [BitVec.and_append, BitVec.and_allOnes, BitVec.and_zero]

/-- The row of `PUSH` is selected by its `opc`, so by the words of `PUSH`. -/
theorem selects_push_row {w : OpWord} :
    OpcodeRow.selects ⟨0x100#11, 0x700#11, .push⟩ w = true ↔ encode (.push (immField w)) = w := by
  calc _ ↔ opcField w ++ 0#8 = 1#3 ++ 0#8 := by simp only [OpcodeRow.selects, and_opc_mask, beq_iff_eq]; rfl
    _ ↔ 1#3 = opcField w := by rw [BitVec.append_left_inj, eq_comm]
    _ ↔ 1#3 ++ immField w = opcField w ++ immField w := (BitVec.append_left_inj _).symm
    _ ↔ encode (.push (immField w)) = w := by rw [opcField_append_immField]; rfl

/-- Selecting a row is being the word of the operation the row reads. -/
theorem selects_iff {row : OpcodeRow} (hrow : row ∈ opcodeTable) (w : OpWord) :
    row.selects w = true ↔ decode w = .ok (row.read (immField w)) := by
  rw [decode_eq_ok_iff]
  simp only [opcodeTable, List.mem_cons, List.not_mem_nil, or_false] at hrow
  rcases hrow with rfl | rfl | rfl | rfl | rfl | rfl
  · exact selects_plain_row (i := .clr)
  · exact selects_push_row
  · exact selects_plain_row (i := .stat)
  · exact selects_plain_row (i := .rdacc)
  · exact selects_plain_row (i := .dec)
  · exact selects_plain_row (i := .ser)

/-- Every operation is read by one of the rows. -/
theorem exists_row_reading (i : Instr) : ∃ row ∈ opcodeTable, row.read (immField (encode i)) = i := by
  cases i <;> simp [opcodeTable, encode]

/-- No two rows read the same operation. -/
theorem rows_read_differently : opcodeTable.Pairwise fun p q => ∀ b, p.read b ≠ q.read b := by
  simp [opcodeTable]

/-- Settles O3: a row is selected by the words that decode to what it reads (`selects_iff`), and no two rows read alike. -/
theorem decoderFollowsMatchAndMask : Obligations.DecoderFollowsMatchAndMask := by
  refine ⟨fun w i => ⟨fun h => ?_, fun ⟨row, hrow, hsel, hread⟩ => ?_⟩, ?_⟩
  · obtain ⟨row, hrow, hread⟩ := exists_row_reading i
    rw [encode_of_decode h] at hread
    exact ⟨row, hrow, (selects_iff hrow w).mpr (hread ▸ h), hread⟩
  · exact hread ▸ (selects_iff hrow w).mp hsel
  · refine rows_read_differently.imp_of_mem fun hp hq hne w ⟨hpsel, hqsel⟩ => hne (immField w) ?_
    exact Except.ok.inj (((selects_iff hp w).mp hpsel).symm.trans ((selects_iff hq w).mp hqsel))

/-- The three bits of `opc` (R42, R43). -/
theorem opc_cases (o : BitVec 3) : o = 0b001#3 ∨ (o = 0b110#3 ∨ o = 0b111#3) ∨
    (o = 0b000#3 ∨ o = 0b010#3 ∨ o = 0b011#3 ∨ o = 0b100#3 ∨ o = 0b101#3) := by
  revert o; decide

/-- The reserved words (R43). -/
theorem exists_decode_eq_error_iff (w : OpWord) : (∃ why, decode w = .error why) ↔
    (opcField w = 0b110#3 ∨ opcField w = 0b111#3) ∨
      ((opcField w = 0b000#3 ∨ opcField w = 0b010#3 ∨ opcField w = 0b011#3 ∨ opcField w = 0b100#3 ∨ opcField w = 0b101#3) ∧
        immField w ≠ 0x00#8) := by
  rcases opc_cases (opcField w) with h | (h | h) | (h | h | h | h | h) <;>
    simp [decode, h, exists_decodePlain_eq_error_iff]

/-- Settles O4: the reserved words by their fields, and the step that rejects one. -/
theorem reservedWordsRaiseIllegalOp : Obligations.ReservedWordsRaiseIllegalOp :=
  ⟨exists_decode_eq_error_iff, fun _ _ _ _ hissued hd => Machine.step_reserved hissued hd⟩

end Sys2Proof
end

section
/-! PROOF. FRAME48 and the values assembled from a frame, as bit ranges (30_encoding.md R38, R39). -/

namespace Sys2Proof.Machine

/-- Joined values are equal in both parts. -/
theorem append_inj {m n : Nat} {a c : BitVec m} {b d : BitVec n} (h : a ++ b = c ++ d) : a = c ∧ b = d := by
  have hhi := congrArg (BitVec.extractLsb' n m) h
  have hlo := congrArg (BitVec.extractLsb' 0 n) h
  simp only [BitVec.extractLsb'_append_eq_left, BitVec.extractLsb'_append_eq_right] at hhi hlo
  exact ⟨hhi, hlo⟩

/-- A frame is determined by its 48-bit value. -/
theorem Frame.word_injective : Function.Injective Frame.word := by
  rintro ⟨f0, f1, f2, f3, f4, f5⟩ ⟨g0, g1, g2, g3, g4, g5⟩ h
  obtain ⟨rfl, h⟩ := append_inj h
  obtain ⟨rfl, h⟩ := append_inj h
  obtain ⟨rfl, h⟩ := append_inj h
  obtain ⟨rfl, h⟩ := append_inj h
  obtain ⟨rfl, rfl⟩ := append_inj h
  rfl

/-- A byte range above the `k` lowest bits, joined to them. -/
theorem byte_append_low_bits (w : FrameWord) (k : Nat) :
    w.extractLsb' k 8 ++ w.extractLsb' 0 k = w.extractLsb' 0 (8 + k) :=
  BitVec.extractLsb'_append_extractLsb'_eq_extractLsb' (Nat.zero_add k).symm

/-- The six byte ranges of a 48-bit value make it up (R38). -/
theorem Frame.word_ofWord (w : FrameWord) : (Frame.ofWord w).word = w := by
  simp only [Frame.word, Frame.ofWord]
  rw [byte_append_low_bits w 8, byte_append_low_bits w 16, byte_append_low_bits w 24, byte_append_low_bits w 32,
    byte_append_low_bits w 40, BitVec.extractLsb'_eq_self]

/-- A frame is read back from its 48-bit value (R38). -/
theorem Frame.ofWord_word (f : Frame) : Frame.ofWord f.word = f :=
  Frame.word_injective (Frame.word_ofWord f.word)

/-- Settles O7: the frame's bytes are adjacent ranges of the value, and so are the operands made of two of them. -/
theorem frameWordHoldsTheFields : Obligations.FrameWordHoldsTheFields := by
  refine ⟨Frame.ofWord_word, Frame.word_ofWord, fun w => ?_⟩
  have htemp : rawTemp (Frame.ofWord w).tempMsb (Frame.ofWord w).tempLsb = w.extractLsb' 32 16 :=
    BitVec.extractLsb'_append_extractLsb'_eq_extractLsb' rfl
  have hhum : rawHum (Frame.ofWord w).humMsb (Frame.ofWord w).humLsb = w.extractLsb' 8 16 :=
    BitVec.extractLsb'_append_extractLsb'_eq_extractLsb' rfl
  refine ⟨htemp, hhum, ?_⟩
  rw [packSerial_eq_packCounts, packCounts, htemp, hhum]

end Sys2Proof.Machine
end

section
/-! PROOF. The response word, and the responses of one operation (30_encoding.md R45). -/

namespace Sys2Proof.Machine

/-- The code field of a response word (R45). -/
@[simp] theorem Response.word_code_field (n : Nat) (r : Response) : (r.word n).extractLsb' 32 4 = r.code :=
  BitVec.extractLsb'_append_eq_left

/-- The data field of a response word (R45). -/
@[simp] theorem Response.word_data_field (n : Nat) (r : Response) : (r.word n).extractLsb' 0 32 = r.data n :=
  BitVec.extractLsb'_append_eq_right

/-- Codes 5 to 15 are never produced (R78). -/
theorem Response.code_le_four (r : Response) : r.code.toNat ≤ 4 := by
  cases r with
  | ok => decide
  | okData v => exact Nat.zero_le 4
  | err e => cases e <;> decide

/-- The `k`-th word of a list is that of the `k`-th response, numbered from the first. -/
theorem respWordsFrom_getElem? (n k : Nat) (rs : List Response) :
    (respWordsFrom n rs)[k]? = rs[k]?.map (Response.word (n + k)) := by
  induction rs generalizing n k with
  | nil => rfl
  | cons r rest ih =>
    cases k with
    | zero => rfl
    | succ k => simp [respWordsFrom, ih, Nat.add_assoc, Nat.add_comm 1]

theorem respWordsFrom_length (n : Nat) (rs : List Response) : (respWordsFrom n rs).length = rs.length := by
  induction rs generalizing n with
  | nil => rfl
  | cons r rest ih => simp [respWordsFrom, ih]

/-- Settles O8: the two fields of the word, read for each response. -/
theorem responseWordFields : Obligations.ResponseWordFields := by
  refine fun n => ⟨by simp [Response.word, Response.code, Response.data], fun v => ?_, ?_⟩
  · exact ⟨Response.word_code_field n _, Response.word_data_field n _⟩
  · exact ⟨Response.word_code_field n _, Response.word_code_field n _, Response.word_code_field n _,
      Response.word_code_field n _⟩

/-- Settles O9: the words are those of the responses in order, each with its code field. -/
theorem responseWordsMatchResponses : Obligations.ResponseWordsMatchResponses := by
  refine fun s => ⟨respWordsFrom_length 0 s.responses, fun n r h => ?_⟩
  refine ⟨r.word (0 + n), ?_, r.word_code_field _, r.code_le_four⟩
  rw [State.respWords, respWordsFrom_getElem?, h, Option.map_some]

/-- Where `PUSH` answers it adds one response and leaves what is issued alone. -/
theorem execPush_responds {b : Byte} {s t : State} (h : execPush b s = .next t) :
    t.issued = s.issued ∧ ∃ r, t.responses = s.responses ++ [r] := by
  rcases execPush_cases b s with ⟨-, he⟩ | ⟨i, -, he⟩ | ⟨i, -, he⟩ <;>
    (cases he.symm.trans h; exact ⟨rfl, _, rfl⟩)

/-- Settles O41: `PUSH` by its three cases, `DEC` and `SER` by `collect_next`; the others respond outright. -/
theorem oneResponsePerOperation : Obligations.OneResponsePerOperation := by
  intro i s t h
  cases i with
  | clr => cases h; exact ⟨rfl, _, rfl⟩
  | push b => exact execPush_responds h
  | stat => cases h; exact ⟨rfl, _, rfl⟩
  | rdacc => cases h; exact ⟨rfl, _, rfl⟩
  | dec => obtain ⟨r, rfl⟩ := collect_next h; exact ⟨rfl, r, rfl⟩
  | ser => obtain ⟨r, rfl⟩ := collect_next h; exact ⟨rfl, r, rfl⟩

end Sys2Proof.Machine
end

section
/-! PROOF. The valid frames: one for each pair of counts (30_encoding.md R40). -/

namespace Sys2Proof.Machine

/-- The frame that carries two counts with their checksums. -/
def frameOfCounts (t h : RawCount) : Frame where
  tempMsb := t.extractLsb' 8 8
  tempLsb := t.extractLsb' 0 8
  tempCrc := checksum (t.extractLsb' 8 8) (t.extractLsb' 0 8)
  humMsb := h.extractLsb' 8 8
  humLsb := h.extractLsb' 0 8
  humCrc := checksum (h.extractLsb' 8 8) (h.extractLsb' 0 8)

@[simp] theorem rawTemp_msb (f0 f1 : Byte) : (rawTemp f0 f1).extractLsb' 8 8 = f0 := BitVec.extractLsb'_append_eq_left
@[simp] theorem rawTemp_lsb (f0 f1 : Byte) : (rawTemp f0 f1).extractLsb' 0 8 = f1 := BitVec.extractLsb'_append_eq_right
@[simp] theorem rawHum_msb (f3 f4 : Byte) : (rawHum f3 f4).extractLsb' 8 8 = f3 := BitVec.extractLsb'_append_eq_left
@[simp] theorem rawHum_lsb (f3 f4 : Byte) : (rawHum f3 f4).extractLsb' 0 8 = f4 := BitVec.extractLsb'_append_eq_right

theorem decodeFrame_eq_ok_iff {f : Frame} {t h : RawCount} :
    decodeFrame f = .ok (t, h) ↔ f.valid = true ∧ rawTemp f.tempMsb f.tempLsb = t ∧ rawHum f.humMsb f.humLsb = h := by
  by_cases hv : f.valid = true <;> simp [decodeFrame, hv]

/-- The one frame with given counts (R40). -/
theorem decodeFrame_eq_ok_iff_frameOfCounts {f : Frame} {t h : RawCount} :
    decodeFrame f = .ok (t, h) ↔ f = frameOfCounts t h := by
  rw [decodeFrame_eq_ok_iff, f.valid_iff]
  constructor
  · rintro ⟨⟨htemp, hhum⟩, rfl, rfl⟩
    simp [frameOfCounts, htemp, hhum]
  · rintro rfl
    have hjoin : ∀ c : RawCount, c.extractLsb' 8 8 ++ c.extractLsb' 0 8 = c := fun c =>
      BitVec.extractLsb'_append_extractLsb'
    exact ⟨⟨rfl, rfl⟩, hjoin t, hjoin h⟩

/-- Each choice of data bytes has one pair of checksum bytes (R40). -/
theorem existsUnique_checksums (f0 f1 f3 f4 : Byte) :
    ∃! c : Byte × Byte, Frame.valid ⟨f0, f1, c.1, f3, f4, c.2⟩ = true :=
  ⟨(checksum f0 f1, checksum f3 f4), by simp [Frame.valid_iff], fun c hc => by
    obtain ⟨h1, h2⟩ := (Frame.valid_iff _).mp hc
    exact Prod.ext h1.symm h2.symm⟩

theorem frameOfCounts_valid (t h : RawCount) : (frameOfCounts t h).valid = true :=
  (decodeFrame_eq_ok_iff.mp (decodeFrame_eq_ok_iff_frameOfCounts.mpr rfl)).1

/-- The valid frame of a pair of counts. -/
def validFrameOfCounts (c : RawCount × RawCount) : { f : Frame // f.valid = true } :=
  ⟨frameOfCounts c.1 c.2, frameOfCounts_valid c.1 c.2⟩

/-- The valid frames are in bijection with the pairs of counts (R40). -/
theorem bijective_validFrameOfCounts : Function.Bijective validFrameOfCounts := by
  refine ⟨fun (t, h) (t', h') heq => ?_, fun ⟨f, hv⟩ => ?_⟩
  · have hsame : frameOfCounts t h = frameOfCounts t' h' := congrArg Subtype.val heq
    have hdec := decodeFrame_eq_ok_iff_frameOfCounts.mpr hsame
    exact Except.ok.inj ((decodeFrame_eq_ok_iff_frameOfCounts.mpr rfl).symm.trans hdec)
  · have hdec := decodeFrame_eq_ok_iff.mpr ⟨hv, rfl, rfl⟩
    exact ⟨(_, _), Subtype.ext (decodeFrame_eq_ok_iff_frameOfCounts.mp hdec).symm⟩

theorem natCard_bitVec (n : Nat) : Nat.card (BitVec n) = 2 ^ n :=
  (Nat.card_congr FinEnum.equiv).trans (Nat.card_fin _)

/-- Settles O28: the frame with given counts is `frameOfCounts`, so the valid frames number the pairs of counts. -/
theorem everyCountPairHasOneValidFrame : Obligations.EveryCountPairHasOneValidFrame := by
  refine ⟨existsUnique_checksums, fun t h => ⟨frameOfCounts t h, ?_, fun f => ?_⟩, ?_, by decide +kernel, by decide +kernel⟩
  · exact decodeFrame_eq_ok_iff_frameOfCounts.mpr rfl
  · exact decodeFrame_eq_ok_iff_frameOfCounts.mp
  · rw [← Nat.card_eq_of_bijective _ bijective_validFrameOfCounts, Nat.card_prod, natCard_bitVec, ← pow_add]

end Sys2Proof.Machine
end

section
/-! PROOF. The assembler reads the lines it writes, and the words of the pseudo-operations (30_encoding.md R46, R47). -/

namespace Sys2Proof.Machine

theorem hexValue_hexDigit {n : Nat} (h : n < 16) : hexValue (hexDigit n) = some n := by
  revert n; decide

/-- A hexadecimal digit is neither a blank nor the comment sign. -/
theorem hexDigit_ne {n : Nat} (h : n < 16) : hexDigit n ≠ ' ' ∧ hexDigit n ≠ ';' := by
  revert n; decide

/-- The text of a byte is its two digits after `0x` (R46). -/
theorem renderByte_eq (b : Byte) :
    renderByte b = ['0', 'x', hexDigit (b.toNat / 16 % 16), hexDigit (b.toNat % 16)] := rfl

/-- The text of a byte holds neither a blank nor the comment sign. -/
theorem ne_of_mem_renderByte {b : Byte} {c : Char} (h : c ∈ renderByte b) : c ≠ ' ' ∧ c ≠ ';' := by
  have hdigit : ∀ n, hexDigit (n % 16) ≠ ' ' ∧ hexDigit (n % 16) ≠ ';' := fun n => hexDigit_ne (Nat.mod_lt n (by decide))
  simp only [renderByte_eq, List.mem_cons, List.not_mem_nil, or_false] at h
  rcases h with rfl | rfl | rfl | rfl
  · decide
  · decide
  · exact hdigit _
  · exact hdigit _

/-- The text of a byte is read as that byte (R46). -/
theorem parseByte_renderByte (b : Byte) : parseByte (renderByte b) = some b := by
  have hb : 16 * (b.toNat / 16 % 16) + b.toNat % 16 = b.toNat := by omega
  have hhi : hexValue (hexDigit (b.toNat / 16 % 16)) = some (b.toNat / 16 % 16) := hexValue_hexDigit (by omega)
  have hlo : hexValue (hexDigit (b.toNat % 16)) = some (b.toNat % 16) := hexValue_hexDigit (by omega)
  simp [renderByte_eq, parseByte, hhi, hlo, hb]

/-- Characters other than blanks go to the word being read. -/
theorem splitFrom_append {word text rest : List Char} (h : ∀ c ∈ text, c ≠ ' ') :
    splitFrom word (text ++ rest) = splitFrom (word ++ text) rest := by
  induction text generalizing word with
  | nil => simp
  | cons c text ih =>
    obtain ⟨hc, htext⟩ := List.forall_mem_cons.mp h
    simp [splitFrom, hc, ih htext]

/-- A line without blanks is one word. -/
theorem splitWords_of_no_blank {text : List Char} (h : ∀ c ∈ text, c ≠ ' ') : splitWords text = [text] := by
  simpa [splitWords, splitFrom] using splitFrom_append (word := []) (rest := []) h

/-- The line of `PUSH` is two words. -/
theorem splitWords_render_push (b : Byte) : splitWords (render (.push b)) = [['P', 'U', 'S', 'H'], renderByte b] :=
  congrArg (['P', 'U', 'S', 'H'] :: ·) (splitWords_of_no_blank fun _ hc => (ne_of_mem_renderByte hc).1)

/-- A line that is the text of an operation but for its comment and trailing blanks is read as that operation. -/
theorem parseLine_of_stripComment {line : List Char} {i : Instr} (h : stripComment line = render i) :
    parseLine line = some [i] := by
  rw [parseLine, h]
  cases i with
  | push b => simp [splitWords_render_push, parseBytes, parseByte_renderByte, expandLine]
  | clr => rfl
  | stat => rfl
  | rdacc => rfl
  | dec => rfl
  | ser => rfl

/-- The text of an operation holds no comment sign. -/
theorem ne_semicolon_of_mem_render {i : Instr} : ∀ c ∈ render i, c ≠ ';' := by
  cases i
  case push b =>
    have hbyte : ∀ c ∈ renderByte b, c ≠ ';' := fun c hc => (ne_of_mem_renderByte hc).2
    simpa [render] using hbyte
  all_goals simp [render]

/-- The text of an operation does not end in a blank. -/
theorem getLast_render_ne_blank {i : Instr} (h : render i ≠ []) : (render i).getLast h ≠ ' ' := by
  cases i
  case push b => simp [render, renderByte_eq, (hexDigit_ne (Nat.mod_lt b.toNat (by decide))).1]
  all_goals simp [render]

/-- A text without comment sign is not cut. -/
theorem takeWhile_ne_semicolon {text : List Char} (h : ∀ c ∈ text, c ≠ ';') : text.takeWhile (· ≠ ';') = text :=
  List.takeWhile_eq_self_iff.mpr (by simpa using h)

/-- A line is cut at its comment sign and loses its trailing blanks (log 12). -/
theorem stripComment_eq_rdropWhile (line : List Char) :
    stripComment line = (line.takeWhile (· ≠ ';')).rdropWhile (· = ' ') := rfl

/-- The text of an operation has no comment and no trailing blank to lose. -/
theorem stripComment_render (i : Instr) : stripComment (render i) = render i := by
  rw [stripComment_eq_rdropWhile, takeWhile_ne_semicolon ne_semicolon_of_mem_render, List.rdropWhile_eq_self_iff]
  simpa using getLast_render_ne_blank

/-- A comment and the blank before it are dropped. -/
theorem stripComment_append_comment {text : List Char} (h : ∀ c ∈ text, c ≠ ';') (comment : List Char) :
    stripComment (text ++ [' ', ';'] ++ comment) = stripComment text := by
  have hline : (text ++ [' ', ';'] ++ comment).takeWhile (· ≠ ';') = text ++ [' '] := by
    rw [List.append_assoc, List.takeWhile_append_of_pos (by simpa using h)]
    rfl
  rw [stripComment_eq_rdropWhile, hline, List.rdropWhile_concat_pos _ _ _ (by simp), stripComment_eq_rdropWhile,
    takeWhile_ne_semicolon h]

/-- Settles O10: a comment and the blank before it are dropped, and the text left is read. -/
theorem assemblerReadsWhatItWrites : Obligations.AssemblerReadsWhatItWrites := by
  refine fun i comment => ⟨parseLine_of_stripComment (stripComment_render i), parseLine_of_stripComment ?_⟩
  rw [stripComment_append_comment ne_semicolon_of_mem_render, stripComment_render]

/-- Settles O11: the words of each expansion, in order. -/
theorem pseudoOperationsExpand : Obligations.PseudoOperationsExpand :=
  ⟨fun _ => rfl, fun _ _ => rfl, fun _ => List.map_append⟩

end Sys2Proof.Machine
end

section
/-! PROOF. The CRC functions are linear over XOR, so a function of them is fixed by its values on the single bits
(40_checksum.md R48, R52, R53). -/

namespace Sys2Proof.Machine

/-- Every bit vector is an exclusive or of single bits. -/
theorem xor_induction {n : Nat} {P : BitVec n → Prop} (zero : P 0#n) (bit : ∀ k, k < n → P (BitVec.twoPow n k))
    (xor : ∀ x y, P x → P y → P (x ^^^ y)) (x : BitVec n) : P x := by
  have low : ∀ k, k ≤ n → P ((x.setWidth k).setWidth n) := by
    intro k
    induction k with
    | zero => simpa [BitVec.of_length_zero] using zero
    | succ k ih =>
      intro hk
      cases hx : x.getLsbD k with
      | false =>
        rw [BitVec.setWidth_setWidth_succ_eq_setWidth_setWidth_of_getLsbD_false hx]
        exact ih (by omega)
      | true =>
        have hjoin : (x.setWidth (k + 1)).setWidth n = (x.setWidth k).setWidth n ^^^ BitVec.twoPow n k := by
          rw [BitVec.setWidth_setWidth_succ_eq_setWidth_setWidth_or_twoPow_of_getLsbD_true hx]
          ext j hj
          by_cases hjk : j = k <;> simp [hjk]
        rw [hjoin]
        exact xor _ _ (ih (by omega)) (bit k hk)
  simpa using low n le_rfl

/-- One turn of the bit-serial loop is linear in the byte and the accumulator together. -/
theorem serialBit_xor (b b' a a' : Byte) (k : Nat) :
    serialBit (b ^^^ b') (a ^^^ a') k = serialBit b a k ^^^ serialBit b' a' k := by
  have hfeedback : ((a ^^^ a').getLsbD 7 ^^ (b ^^^ b').getLsbD k) =
      ((a.getLsbD 7 ^^ b.getLsbD k) ^^ (a'.getLsbD 7 ^^ b'.getLsbD k)) := by
    simp only [BitVec.getLsbD_xor, Bool.xor_assoc, Bool.xor_left_comm]
  have hmove : ∀ x y : Byte, (x ^^^ y) ^^^ crcPoly = (x ^^^ crcPoly) ^^^ y := fun x y => by ac_rfl
  have hcancel : ∀ x y : Byte, x ^^^ y = (x ^^^ crcPoly) ^^^ (y ^^^ crcPoly) := fun x y => by
    rw [BitVec.xor_comm y crcPoly, ← BitVec.xor_assoc, xor_cancel_right]
  simp only [serialBit, hfeedback, BitVec.shiftLeft_xor_distrib]
  cases a.getLsbD 7 ^^ b.getLsbD k <;> cases a'.getLsbD 7 ^^ b'.getLsbD k
  · rfl
  · exact BitVec.xor_assoc _ _ _
  · exact hmove _ _
  · exact hcancel _ _

/-- One iteration is a turn of the bit-serial loop on a zero byte. -/
theorem serialBit_zero (a : Byte) (k : Nat) : serialBit 0#8 a k = crc8Bit a := by
  simp [serialBit, crc8Bit]

theorem crc8Bit_xor (x y : Byte) : crc8Bit (x ^^^ y) = crc8Bit x ^^^ crc8Bit y := by
  simpa only [serialBit_zero, BitVec.zero_xor] using serialBit_xor 0#8 0#8 x y 0

theorem crc8Bits_xor (k : Nat) (x y : Byte) : crc8Bits k (x ^^^ y) = crc8Bits k x ^^^ crc8Bits k y := by
  induction k generalizing x y with
  | zero => rfl
  | succ k ih => simp only [crc8Bits, crc8Bit_xor, ih]

theorem crc8Bits_zero (k : Nat) : crc8Bits k 0#8 = 0#8 := by
  induction k with
  | zero => rfl
  | succ k ih => exact ih

/-- No two bytes give the same byte after an iteration: their difference would be a byte that an iteration takes to zero. -/
theorem crc8Bit_injective : Function.Injective crc8Bit := by
  have hker : ∀ a, crc8Bit a = 0#8 → a = 0#8 := by decide
  intro x y h
  rw [← BitVec.xor_eq_zero_iff] at h ⊢
  exact hker _ ((crc8Bit_xor x y).trans h)

theorem crc8Bits_injective (k : Nat) : Function.Injective (crc8Bits k) := by
  induction k with
  | zero => exact Function.injective_id
  | succ k ih => exact ih.comp crc8Bit_injective

theorem crc8Bits_eq_zero_iff {k : Nat} {x : Byte} : crc8Bits k x = 0#8 ↔ x = 0#8 :=
  ⟨fun h => crc8Bits_injective k (h.trans (crc8Bits_zero k).symm), fun h => h ▸ crc8Bits_zero k⟩

theorem crcT_xor (x y : Byte) : crcT (x ^^^ y) = crcT x ^^^ crcT y := crc8Bits_xor 8 x y

theorem crcT_bijective : Function.Bijective crcT := Finite.injective_iff_bijective.mp (crc8Bits_injective 8)

theorem crc8Byte_eq_crcT (a b : Byte) : crc8Byte a b = crcT (a ^^^ b) := rfl

theorem checksum_eq_crcT (b0 b1 : Byte) : checksum b0 b1 = crcT (crcT (0xFF#8 ^^^ b0) ^^^ b1) := rfl

end Sys2Proof.Machine
end

section
/-! PROOF. The table form and the bit-serial form (40_checksum.md R48, R54, R56). -/

namespace Sys2Proof.Machine

/-- The printed table, entry by entry (R54). -/
theorem crcTable_eq_crcT : ∀ x : Byte, crcTable x = crcT x := by decide +kernel

/-- Settles O18: the entries one by one, and `T` as eight iterations, each linear and injective. -/
theorem crcTableForm : Obligations.CrcTableForm :=
  ⟨crcTable_eq_crcT, crc8Byte_eq_crcT, checksum_eq_crcT, crcT_xor, crc8Bits_zero 8, crcT_bijective⟩

/-- Settles O16: with the top bit known the iteration is a shift, or a shift and an exclusive or with a constant. -/
theorem oneIterationBitByBit : Obligations.OneIterationBitByBit := by
  refine ⟨fun a => ⟨rfl, ?_⟩, by decide⟩
  by_cases h : a[7] <;> simp [crc8Bit, crcPoly, h]

/-- The bit-serial loop is linear in the byte and the accumulator together, whatever bits it takes. -/
theorem foldl_serialBit_xor (ks : List Nat) (b b' a a' : Byte) :
    ks.foldl (serialBit (b ^^^ b')) (a ^^^ a') = ks.foldl (serialBit b) a ^^^ ks.foldl (serialBit b') a' := by
  induction ks generalizing a a' with
  | nil => rfl
  | cons k ks ih => simp only [List.foldl_cons, serialBit_xor, ih]

theorem crc8ByteSerial_xor (a a' b b' : Byte) :
    crc8ByteSerial (a ^^^ a') (b ^^^ b') = crc8ByteSerial a b ^^^ crc8ByteSerial a' b' :=
  foldl_serialBit_xor [7, 6, 5, 4, 3, 2, 1, 0] b b' a a'

/-- On a zero byte the loop is eight iterations. -/
theorem crc8ByteSerial_zero_byte (a : Byte) : crc8ByteSerial a 0#8 = crcT a := by
  simp only [crc8ByteSerial, List.foldl_cons, List.foldl_nil, serialBit_zero]
  rfl

/-- From a zero accumulator the loop gives what the whole byte XORed in at once gives: it does so for each single bit. -/
theorem crc8ByteSerial_zero_acc (b : Byte) : crc8ByteSerial 0#8 b = crcT b := by
  induction b using xor_induction with
  | zero => decide
  | bit k hk => revert k; decide
  | xor x y hx hy => rw [crcT_xor, ← hx, ← hy, ← crc8ByteSerial_xor, BitVec.xor_self]

/-- Settles O20: by linearity the accumulator and the byte go through the loop apart. -/
theorem bitSerialFormAgrees : Obligations.BitSerialFormAgrees := by
  intro a b
  calc crc8ByteSerial a b
    _ = crc8ByteSerial (a ^^^ 0#8) (0#8 ^^^ b) := by rw [BitVec.xor_zero, BitVec.zero_xor]
    _ = crcT a ^^^ crcT b := by rw [crc8ByteSerial_xor, crc8ByteSerial_zero_byte, crc8ByteSerial_zero_acc]
    _ = crc8Byte a b := (crcT_xor a b).symm

end Sys2Proof.Machine
end

section
/-! PROOF. The combinational forms: linear functions of the data bits that agree with `T` on the single bits
(40_checksum.md R55). -/

namespace Sys2Proof.Machine

theorem byteOfBits_xor (f g : Nat → Bool) : byteOfBits (fun k => f k ^^ g k) = byteOfBits f ^^^ byteOfBits g := by
  simp only [byteOfBits, ← BitVec.ofBool_xor_ofBool, ← BitVec.xor_append]

/-- Bits taken from `x` on are `x` and the bits taken from nothing. -/
theorem foldl_xor_getLsbD {n : Nat} (v : BitVec n) (ks : List Nat) (x : Bool) :
    ks.foldl (fun x k => x ^^ v.getLsbD k) x = (x ^^ xorBits v ks) := by
  induction ks generalizing x with
  | nil => exact (Bool.xor_false x).symm
  | cons k ks ih => rw [xorBits, List.foldl_cons, List.foldl_cons, ih, ih, Bool.false_xor, Bool.xor_assoc]

theorem xorBits_cons {n : Nat} (v : BitVec n) (k : Nat) (ks : List Nat) :
    xorBits v (k :: ks) = (v.getLsbD k ^^ xorBits v ks) :=
  (foldl_xor_getLsbD v ks (false ^^ v.getLsbD k)).trans (by rw [Bool.false_xor])

theorem xorBits_xor {n : Nat} (v w : BitVec n) (ks : List Nat) :
    xorBits (v ^^^ w) ks = (xorBits v ks ^^ xorBits w ks) := by
  induction ks with
  | nil => rfl
  | cons k ks ih => simp only [xorBits_cons, ih, BitVec.getLsbD_xor, Bool.xor_assoc, Bool.xor_left_comm]

/-- The byte whose bit `k` is the exclusive or of the bits of `v` that `taps k` lists. -/
def tapsByte {n : Nat} (taps : Nat → List Nat) (v : BitVec n) : Byte := byteOfBits fun k => xorBits v (taps k)

theorem crc8ByteComb_eq_tapsByte (a b : Byte) : crc8ByteComb a b = tapsByte byteStepTaps (a ^^^ b) := rfl

theorem checksumComb_eq_tapsByte (b0 b1 : Byte) :
    checksumComb b0 b1 = tapsByte checksumTaps (b0 ++ b1) ^^^ 0x81#8 :=
  byteOfBits_xor _ _

theorem tapsByte_xor {n : Nat} (taps : Nat → List Nat) (v w : BitVec n) :
    tapsByte taps (v ^^^ w) = tapsByte taps v ^^^ tapsByte taps w := by
  simp only [tapsByte, xorBits_xor, byteOfBits_xor]

/-- The part of a checksum that the data bits contribute; what is left of it is the constant of R55. -/
def dataChecksum (w : BitVec 16) : Byte := crcT (crcT (w.extractLsb' 8 8) ^^^ w.extractLsb' 0 8)

theorem dataChecksum_xor (v w : BitVec 16) : dataChecksum (v ^^^ w) = dataChecksum v ^^^ dataChecksum w := by
  simp only [dataChecksum, BitVec.extractLsb'_xor, crcT_xor]
  ac_rfl

/-- The checksum is affine in the data bits (R55). -/
theorem checksum_eq_dataChecksum (b0 b1 : Byte) : checksum b0 b1 = dataChecksum (b0 ++ b1) ^^^ 0x81#8 := by
  have hmsb : (b0 ++ b1).extractLsb' 8 8 = b0 := BitVec.extractLsb'_append_eq_left
  have hlsb : (b0 ++ b1).extractLsb' 0 8 = b1 := BitVec.extractLsb'_append_eq_right
  have hinit : crcT (crcT 0xFF#8) = 0x81#8 := by decide +kernel
  calc checksum b0 b1
    _ = crcT (crcT (0xFF#8 ^^^ b0) ^^^ b1) := checksum_eq_crcT b0 b1
    _ = crcT (crcT 0xFF#8) ^^^ crcT (crcT b0 ^^^ b1) := by
      rw [crcT_xor 0xFF#8 b0, BitVec.xor_assoc, crcT_xor (crcT 0xFF#8)]
    _ = dataChecksum (b0 ++ b1) ^^^ 0x81#8 := by rw [hinit, dataChecksum, hmsb, hlsb, BitVec.xor_comm]

theorem tapsByte_byteStepTaps (d : Byte) : tapsByte byteStepTaps d = crcT d := by
  induction d using xor_induction with
  | zero => decide
  | bit k hk => revert k; decide
  | xor x y hx hy => rw [tapsByte_xor, crcT_xor, hx, hy]

theorem tapsByte_checksumTaps (w : BitVec 16) : tapsByte checksumTaps w = dataChecksum w := by
  induction w using xor_induction with
  | zero => decide +kernel
  | bit k hk => revert k; decide +kernel
  | xor x y hx hy => rw [tapsByte_xor, dataChecksum_xor, hx, hy]

/-- Settles O19: the taps are those of `T` and of the data's part of the checksum. -/
theorem combinationalFormsAgree : Obligations.CombinationalFormsAgree := by
  refine ⟨fun a b => ?_, fun b0 b1 => ?_, by decide +kernel⟩
  · rw [crc8ByteComb_eq_tapsByte, tapsByte_byteStepTaps, crc8Byte_eq_crcT]
  · rw [checksumComb_eq_tapsByte, tapsByte_checksumTaps, checksum_eq_dataChecksum]

end Sys2Proof.Machine
end

section
/-! PROOF. The byte step and the checksum are bijections of each of their bytes (40_checksum.md R57, R58, R59 (e)). -/

namespace Sys2Proof.Machine

theorem crc8Byte_bijective (a : Byte) : Function.Bijective (crc8Byte a) :=
  crcT_bijective.comp (xor_right_involutive a).bijective

theorem crc8Byte_comm (a b : Byte) : crc8Byte a b = crc8Byte b a := congrArg crcT (BitVec.xor_comm a b)

/-- Settles O21: the last byte step is `T` of a difference, which is zero exactly when nothing differs. -/
theorem zeroResidueExactlyOnMatch : Obligations.ZeroResidueExactlyOnMatch := by
  intro b0 b1 c
  have hlast : crc8Seq [b0, b1, c] = crcT (checksum b0 b1 ^^^ c) := rfl
  rw [hlast, crcT, crc8Bits_eq_zero_iff, BitVec.xor_eq_zero_iff, eq_comm]

theorem checksum_bijective_right (b0 : Byte) : Function.Bijective fun b1 => checksum b0 b1 :=
  crc8Byte_bijective (crc8Byte 0xFF#8 b0)

theorem checksum_bijective_left (b1 : Byte) : Function.Bijective fun b0 => checksum b0 b1 := by
  have hsteps : (fun b0 => checksum b0 b1) = crc8Byte b1 ∘ crc8Byte 0xFF#8 := funext fun _ => crc8Byte_comm _ b1
  exact hsteps ▸ (crc8Byte_bijective b1).comp (crc8Byte_bijective 0xFF#8)

/-- The pairs with a given checksum are given by their first bytes. -/
theorem bijective_fst_of_checksum (v : Byte) :
    Function.Bijective fun p : { p : Byte × Byte // checksum p.1 p.2 = v } => p.1.1 := by
  constructor
  · rintro ⟨⟨b0, b1⟩, h⟩ ⟨⟨_, c1⟩, h'⟩ rfl
    obtain rfl : b1 = c1 := (checksum_bijective_right b0).injective (h.trans h'.symm)
    rfl
  · intro b0
    obtain ⟨b1, h⟩ := (checksum_bijective_right b0).surjective v
    exact ⟨⟨(b0, b1), h⟩, rfl⟩

/-- Settles O22: both bijections are byte steps, and the pairs of one value number the bytes. -/
theorem checksumBijectiveInEachByte : Obligations.ChecksumBijectiveInEachByte :=
  ⟨checksum_bijective_right, checksum_bijective_left, fun v =>
    (Nat.card_eq_of_bijective _ (bijective_fst_of_checksum v)).trans (natCard_bitVec 8)⟩

theorem xor_single_bit_ne (b : Byte) {k : Nat} (hk : k < 8) : b ^^^ (1#8 <<< k) ≠ b := by
  have hbit : 1#8 <<< k ≠ 0#8 := by revert k; decide
  exact fun h => hbit (xor_left_eq_self_iff.mp h)

/-- Settles O26: a flipped bit changes the byte, and the checksum is injective in each byte. -/
theorem singleBitDiffusion : Obligations.SingleBitDiffusion := by
  intro b0 b1 k hk
  exact ⟨(checksum_bijective_left b1).injective.ne (xor_single_bit_ne b0 hk),
    (checksum_bijective_right b0).injective.ne (xor_single_bit_ne b1 hk)⟩

end Sys2Proof.Machine
end

section
/-! PROOF. What the checksum detects: an error pattern passes exactly when its syndrome is zero (40_checksum.md R59). -/

namespace Sys2Proof.Machine

/-- The remainder of a 24-bit word modulo the generator of R53. -/
def syndrome (x : BitVec 24) : Byte := dataChecksum (x.extractLsb' 8 16) ^^^ x.extractLsb' 0 8

theorem syndrome_xor (x y : BitVec 24) : syndrome (x ^^^ y) = syndrome x ^^^ syndrome y := by
  simp only [syndrome, BitVec.extractLsb'_xor, dataChecksum_xor]
  ac_rfl

/-- A half passes exactly when its syndrome is the constant of R55. -/
theorem halfPasses_iff_syndrome {x : BitVec 24} : halfPasses x = true ↔ syndrome x = 0x81#8 := by
  have hdata : x.extractLsb' 16 8 ++ x.extractLsb' 8 8 = x.extractLsb' 8 16 :=
    BitVec.extractLsb'_append_extractLsb'_eq_extractLsb' rfl
  rw [halfPasses, beq_iff_eq, checksum_eq_dataChecksum, hdata, syndrome, xor_eq_iff_right_eq, eq_comm]

/-- Whether a corrupted half passes depends on the error pattern alone (R59). -/
theorem halfPasses_xor_iff {x e : BitVec 24} (h : halfPasses x = true) :
    halfPasses (x ^^^ e) = true ↔ syndrome e = 0#8 := by
  rw [halfPasses_iff_syndrome] at h ⊢
  rw [syndrome_xor, h]
  exact xor_left_eq_self_iff

theorem halfPasses_xor_eq_false {x e : BitVec 24} (h : halfPasses x = true) (he : syndrome e ≠ 0#8) :
    halfPasses (x ^^^ e) = false :=
  Bool.eq_false_iff.mpr (mt (halfPasses_xor_iff h).mp he)

/-- Settles O23: both halves pass exactly when the syndrome of the pattern is zero, which that of 0x800023 is. -/
theorem errorDetectionDependsOnThePattern : Obligations.ErrorDetectionDependsOnThePattern := by
  refine ⟨fun x y e hx hy => ?_, by decide, fun x hx => (halfPasses_xor_iff hx).mpr (by decide +kernel)⟩
  rw [Bool.eq_iff_iff, halfPasses_xor_iff hx, halfPasses_xor_iff hy]

/-- Moving a byte up by `k` bits is `k` iterations on its syndrome, which is the byte itself. -/
theorem syndrome_burst (burst : Byte) {k : Nat} (hk : k ≤ 16) :
    syndrome (burst.setWidth 24 <<< k) = crc8Bits k burst := by
  induction burst using xor_induction with
  | zero => revert k; decide +kernel
  | bit j hj => revert j k; decide +kernel
  | xor x y hx hy => rw [BitVec.setWidth_xor, BitVec.shiftLeft_xor_distrib, syndrome_xor, crc8Bits_xor, hx, hy]

/-- Settles O25: iterations take no nonzero byte to zero. -/
theorem burstErrorsDetected : Obligations.BurstErrorsDetected := by
  intro x burst k hburst hk hx
  refine halfPasses_xor_eq_false hx ?_
  rw [syndrome_burst burst hk]
  exact mt crc8Bits_eq_zero_iff.mp hburst

theorem xorBits_eq_true_iff {n : Nat} (v : BitVec n) (ks : List Nat) :
    xorBits v ks = true ↔ (ks.countP fun k => v.getLsbD k) % 2 = 1 := by
  induction ks with
  | nil => simp [xorBits]
  | cons k ks ih =>
    rw [xorBits_cons, List.countP_cons]
    cases v.getLsbD k with
    | false => simpa using ih
    | true =>
      rw [Bool.true_xor, Bool.not_eq_true', ← Bool.not_eq_true, ih, if_pos rfl]
      omega

/-- Whether an odd number of bits is set. -/
def oddParity {n : Nat} (v : BitVec n) : Bool := xorBits v (List.range n)

theorem oddParity_iff_weight {e : BitVec 24} : oddParity e = true ↔ weight e % 2 = 1 := xorBits_eq_true_iff e _

/-- The syndrome keeps the parity, the generator being divisible by x + 1 (R59 (b)). -/
theorem oddParity_syndrome (e : BitVec 24) : oddParity (syndrome e) = oddParity e := by
  induction e using xor_induction with
  | zero => decide +kernel
  | bit k hk => revert k; decide +kernel
  | xor x y hx hy => simpa only [oddParity, syndrome_xor, xorBits_xor] using congrArg₂ Bool.xor hx hy

theorem syndrome_ne_zero_of_weight_odd {e : BitVec 24} (h : weight e % 2 = 1) : syndrome e ≠ 0#8 := by
  intro hzero
  have hodd : oddParity (syndrome e) = true := (oddParity_syndrome e).trans (oddParity_iff_weight.mpr h)
  exact absurd (hzero ▸ hodd) (by decide)

theorem exists_twoPow_xor_of_weight_two {e : BitVec 24} (h : weight e = 2) :
    ∃ i j, i < 24 ∧ j < 24 ∧ i ≠ j ∧ e = BitVec.twoPow 24 i ^^^ BitVec.twoPow 24 j := by
  rw [weight, List.countP_eq_length_filter, List.length_eq_two] at h
  obtain ⟨i, j, hset⟩ := h
  have hmem : ∀ k, k < 24 ∧ e.getLsbD k = true ↔ k = i ∨ k = j := fun k => by
    rw [← List.mem_range, ← List.mem_filter, hset, List.mem_pair]
  obtain ⟨hi, -⟩ := (hmem i).mpr (.inl rfl)
  obtain ⟨hj, -⟩ := (hmem j).mpr (.inr rfl)
  have hnodup : [i, j].Nodup := hset ▸ List.nodup_range.filter _
  have hne : i ≠ j := by simpa using hnodup
  refine ⟨i, j, hi, hj, hne, BitVec.eq_of_getLsbD_eq fun k hk => ?_⟩
  have hbit : e.getLsbD k = true ↔ k = i ∨ k = j := by simpa only [hk, true_and] using hmem k
  have htwo : (BitVec.twoPow 24 i ^^^ BitVec.twoPow 24 j).getLsbD k = true ↔ ¬ (i = k ↔ j = k) := by
    simp [BitVec.getLsbD_twoPow, hi, hj]
  rw [Bool.eq_iff_iff, hbit, htwo]
  omega

/-- No two single bits have the same syndrome (R59 (a)). -/
theorem syndrome_twoPow_ne : ∀ i < 24, ∀ j < 24, i ≠ j →
    syndrome (BitVec.twoPow 24 i) ≠ syndrome (BitVec.twoPow 24 j) := by
  decide +kernel

theorem syndrome_ne_zero_of_weight_two {e : BitVec 24} (h : weight e = 2) : syndrome e ≠ 0#8 := by
  obtain ⟨i, j, hi, hj, hne, rfl⟩ := exists_twoPow_xor_of_weight_two h
  rw [syndrome_xor]
  exact mt BitVec.xor_eq_zero_iff.mp (syndrome_twoPow_ne i hi j hj hne)

/-- Settles O24: weights 1 and 3 are odd, and two single bits differ in their syndromes. -/
theorem fewBitAndOddErrorsDetected : Obligations.FewBitAndOddErrorsDetected := by
  intro x e hx hweight
  refine halfPasses_xor_eq_false hx ?_
  rcases (by omega : weight e % 2 = 1 ∨ weight e = 2) with hodd | htwo
  · exact syndrome_ne_zero_of_weight_odd hodd
  · exact syndrome_ne_zero_of_weight_two htwo

end Sys2Proof.Machine
end

section
/-! PROOF. The checksum's values, `RDACC`, and the sequence that returns the checksum (40_checksum.md R60 to R62). -/

namespace Sys2Proof.Machine

/-- Settles O17: the rows of the table and the nine bytes, evaluated. -/
theorem checksumValuesOfTheSpec : Obligations.ChecksumValuesOfTheSpec := ⟨by decide +kernel, by decide +kernel⟩

theorem zext32_low (b : Byte) : (zext32 b).extractLsb' 0 8 = b := by
  rw [zext32, BitVec.extractLsb'_setWidth_of_le (by decide), BitVec.extractLsb'_eq_self]

theorem zext32_high (b : Byte) : (zext32 b).extractLsb' 8 24 = 0#24 := by
  ext k hk
  simp [zext32]

/-- Settles O34: the response is `ACC`, of which R23 says what it is. -/
theorem rdaccReturnsTheAccumulator : Obligations.RdaccReturnsTheAccumulator := by
  refine ⟨rfl, fun n hn => ?_, fun s => ⟨zext32 s.acc, rfl, zext32_low _, zext32_high _, ?_⟩⟩
  · simp [exists_decode_eq_error_iff, hn]
  · rw [zext32_low]
    refine ⟨fun h hcnt => ?_, fun h => ?_, fun h => ?_, fun h => ?_, fun h => ?_⟩ <;>
      obtain ⟨hinit, hone, htwo, hfour, hfive⟩ := h.acc
    · rw [hinit hcnt]; rfl
    · exact hone
    · exact hfour
    · exact htwo
    · exact hfive

@[simp] theorem acceptEvent_encode (bs : List Byte) (i : Instr) : acceptEvent bs (.op (encode i)) = acceptOp bs i := by
  simp only [acceptEvent, decode_encode]

@[simp] theorem answerEvent_encode (bs : List Byte) (i : Instr) : answerEvent bs (.op (encode i)) = [answerOf bs i] := by
  simp only [answerEvent, decode_encode]

/-- After `CLR` everything is answered from no accepted bytes, whatever the state was (R67, R73). -/
theorem runEvents_clear_answersFrom (es : List HostEvent) (s : State) :
    AnswersFrom s (runEvents (.op (encode .clr) :: es) s) (acceptAll [] es) (.ok :: answerAll [] es) := by
  have hstep : step (s.issueFirst (.op (encode .clr))) = .next (s.startFrame.respond .ok) :=
    step_decoded rfl (decode_encode .clr)
  have hrep : (s.startFrame.respond .ok).Represents [] := represents_nil rfl rfl rfl
  rw [runEvents_of_step es hstep]
  exact AnswersFrom.trans (s := s) (State.respond_responses _ _) rfl (runEvents_answersFrom es hrep)

/-- Settles O54: after the `CLR` two bytes are accepted, and `RDACC` answers their checksum. -/
theorem checksumSequenceReturnsTheChecksum : Obligations.ChecksumSequenceReturnsTheChecksum := by
  intro s b0 b1
  obtain ⟨t, hrun, hrep, hresp, hissued⟩ := runEvents_clear_answersFrom (asEvents [.push b0, .push b1, .rdacc]) s
  have hbytes : acceptAll [] (asEvents [.push b0, .push b1, .rdacc]) = [b0, b1] := by
    simp [asEvents, acceptAll, acceptOp]
  have hanswers : answerAll [] (asEvents [.push b0, .push b1, .rdacc]) =
      [.ok, .ok, .okData (zext32 (checksum b0 b1))] := by
    simp [asEvents, answerAll, acceptOp, answerOf, accOf]
  rw [hbytes] at hrep
  rw [hanswers] at hresp
  exact ⟨t, hrun, hresp, Fin.ext hrep.cnt.symm, hrep.mis, hrep.acc, hissued⟩

end Sys2Proof.Machine
end

section
/-! PROOF. The operations of the frame decoder, one at a time (41_framecodec.md R67 to R71). -/

namespace Sys2Proof.Machine

/-- The state a `PUSH` leaves holds the new byte at the address `CNT`, the other bytes as they were, and one byte more. -/
theorem stored_at_count {s t : State} {i : Index} {b : Byte} (hi : i.val = s.cnt.val)
    (hframe : t.frame = s.frame.write i b) (hcnt : t.cnt = s.cnt + 1) :
    t.frame.read s.cnt.val = some b ∧ (∀ a : Nat, a ≠ s.cnt.val → t.frame.read a = s.frame.read a) ∧
      t.cnt.val = s.cnt.val + 1 := by
  have h6 : s.cnt ≠ 6 := fun h6 => by have := i.isLt; simp [hi, h6] at this
  rw [hframe, hcnt, ← hi]
  exact ⟨Memory.read_write_same _ _ _, fun a ha => Memory.read_write_other _ b ha, hi ▸ count_succ_val h6⟩

/-- A complete frame shows `DONE` and exactly one of `VALID` and `CRC_ERR` (R18). -/
theorem State.one_flag_complete {s : State} (h : s.cnt = 6) : s.done = true ∧ (s.valid ^^ s.crcErr) = true := by
  obtain ⟨hdone, hvalid, hcrc⟩ := State.flags_complete h
  exact ⟨hdone, by rw [hvalid, hcrc]; cases s.mis <;> rfl⟩

/-- The word of `PUSH b` is `0x100 | b` (R42). -/
theorem encode_push (b : Byte) : encode (.push b) = 0x100#11 ||| b.setWidth 11 := by
  calc encode (.push b)
      = (0b001#3 ++ b).setWidth 11 := (BitVec.setWidth_eq _).symm
    _ = 0x100#11 ||| b.setWidth 11 := BitVec.setWidth_append_eq_shiftLeft_setWidth_or

/-- Settles O31: the phase of `CNT` picks the branch of `PUSH`, and the byte goes to the address `CNT` in either phase. -/
theorem pushDeliversTheNextByte : Obligations.PushDeliversTheNextByte := by
  refine fun b s => ⟨encode_push b, fun hlt => ?_, execPush_overrun b⟩
  rcases execPush_cases b s with ⟨h6, -⟩ | ⟨i, hp, he⟩ | ⟨i, hp, he⟩
  · simp [h6] at hlt
  · obtain ⟨hread, hother, hsucc⟩ :=
      stored_at_count (t := ((s.foldByte b).storeByte i b).countByte.respond .ok) (phase_data_val hp) rfl rfl
    have hdata := val_of_phase_data hp
    refine ⟨_, he, hread, hother, fun _ => ⟨rfl, rfl⟩, fun hcheck => ?_, hsucc, State.one_flag_complete, rfl, rfl⟩
    simp only [Fin.ext_iff] at hcheck
    omega
  · obtain ⟨hread, hother, hsucc⟩ :=
      stored_at_count (t := ((s.checkByte b).storeByte i b).countByte.respond .ok) (phase_check_val hp) rfl rfl
    have hcheck := val_of_phase_check hp
    refine ⟨_, he, hread, hother, fun hdata => ?_, fun _ => ⟨rfl, fun hne => ?_, fun heq => ?_⟩, hsucc,
      State.one_flag_complete, rfl, rfl⟩
    · simp only [Fin.ext_iff] at hdata
      omega
    · simp [hne]
    · simp [heq]

/-- In a state that meets the invariants `DEC` and `SER` return data exactly when `VALID`; elsewhere they raise an error. -/
theorem collect_returns_iff_valid (pack : Byte → Byte → Byte → Byte → Data) {s : State} (hinv : s.Inv) :
    s.valid = true ↔ ∃ v t, collect pack s = .next t ∧ t.responses = s.responses ++ [.okData v] := by
  constructor
  · intro hv
    obtain ⟨h6, hm⟩ := s.valid_iff.mp hv
    obtain ⟨f0, f1, f3, f4, h0, h1, h3, h4⟩ := hinv.data_bytes h6
    exact ⟨_, _, collect_valid pack h6 hm h0 h1 h3 h4, rfl⟩
  · rintro ⟨v, t, ht, hresp⟩
    by_contra hv
    obtain ⟨e, he⟩ := collect_of_not_valid (Bool.not_eq_true _ ▸ hv)
    cases (he pack).symm.trans ht
    simp at hresp

/-- Settles O35: the three branches of `collect`, of which the last repeats in the state it leaves. -/
theorem decReturnsTheRawCounts : Obligations.DecReturnsTheRawCounts := by
  refine ⟨rfl, fun s => ⟨collect_incomplete packCounts, collect_mismatch packCounts,
    fun f0 f1 f3 f4 h6 hm h0 h1 h3 h4 => ?_, collect_returns_iff_valid packCounts⟩⟩
  exact ⟨packCounts f0 f1 f3 f4, _, collect_valid packCounts h6 hm h0 h1 h3 h4, rfl,
    BitVec.extractLsb'_append_eq_left, BitVec.extractLsb'_append_eq_right,
    collect_valid packCounts (s := s.respond (.okData (packCounts f0 f1 f3 f4))) h6 hm h0 h1 h3 h4⟩

/-- The four data bytes stand in the serial number most significant first (R39). -/
theorem packSerial_fields (f0 f1 f3 f4 : Byte) :
    (packSerial f0 f1 f3 f4).extractLsb' 24 8 = f0 ∧ (packSerial f0 f1 f3 f4).extractLsb' 16 8 = f1 ∧
      (packSerial f0 f1 f3 f4).extractLsb' 8 8 = f3 ∧ (packSerial f0 f1 f3 f4).extractLsb' 0 8 = f4 := by
  have tail {m n k : Nat} {x : BitVec m} {y : BitVec n} (h : k + 8 ≤ n) :
      (x ++ y).extractLsb' k 8 = y.extractLsb' k 8 := BitVec.extractLsb'_append_eq_of_add_le h
  refine ⟨BitVec.extractLsb'_append_eq_left, (tail (by decide)).trans BitVec.extractLsb'_append_eq_left, ?_, ?_⟩
  · exact (tail (by decide)).trans ((tail (by decide)).trans BitVec.extractLsb'_append_eq_left)
  · exact (tail (by decide)).trans ((tail (by decide)).trans BitVec.extractLsb'_append_eq_right)

/-- `SER` packs the data bytes as `DEC` does (R71). -/
theorem packSerial_eq : packSerial = packCounts := by
  funext f0 f1 f3 f4
  exact packSerial_eq_packCounts f0 f1 f3 f4

/-- Settles O36: the branches of `collect` again, and the two ways to pack the data bytes are one. -/
theorem serReturnsTheSerialNumber : Obligations.SerReturnsTheSerialNumber := by
  refine ⟨rfl, fun s => ⟨collect_incomplete packSerial, collect_mismatch packSerial,
    fun f0 f1 f3 f4 h6 hm h0 h1 h3 h4 => ?_, congrArg (collect · s) packSerial_eq⟩⟩
  exact ⟨packSerial f0 f1 f3 f4, collect_valid packSerial h6 hm h0 h1 h3 h4, packSerial_fields f0 f1 f3 f4⟩

/-- Settles O30: `CLR` starts a frame, which shows no flag and is incomplete. -/
theorem clearStartsANewFrame : Obligations.ClearStartsANewFrame := by
  refine ⟨rfl, fun n hn => ?_, fun s => ?_, State.reset.startFrame.respond .ok, rfl, rfl, rfl, rfl, rfl⟩
  · simp [exists_decode_eq_error_iff, hn]
  · have hcnt : (s.startFrame.respond .ok).cnt ≠ 6 := by simp
    obtain ⟨hdone, hvalid, hcrc⟩ := State.flags_incomplete hcnt
    exact ⟨s.startFrame.respond .ok, rfl, rfl, rfl, rfl, rfl, hdone, hvalid, hcrc, rfl, rfl,
      ⟨_, rfl, rfl, rfl, rfl, rfl⟩, collect_incomplete packCounts hcnt⟩

/-- Settles O33: STATUS is the count of an incomplete frame, and one of two values on a complete one. -/
theorem statReturnsTheStatus : Obligations.StatReturnsTheStatus := by
  refine ⟨rfl, fun n hn => ?_, fun s => ⟨zext32 s.status, rfl, rfl, fun hlt => ?_, fun h6 hv => ?_, fun h6 hc => ?_⟩⟩
  · simp [exists_decode_eq_error_iff, hn]
  · have h6 : s.cnt ≠ 6 := fun h6 => by simp [h6] at hlt
    rw [State.status_incomplete h6]
    generalize s.cnt = c
    revert c; decide
  · obtain ⟨-, hm⟩ := s.valid_iff.mp hv
    rw [State.status_complete h6, hm]; rfl
  · obtain ⟨-, -, hcrc⟩ := State.flags_complete h6
    have hm : s.mis = true := hcrc.symm.trans hc
    rw [State.status_complete h6, hm]; rfl

end Sys2Proof.Machine
end

section
/-! PROOF. The frame functions `decode` and `serial` (41_framecodec.md R63 to R66). -/

namespace Sys2Proof.Machine

theorem decodeFrame_eq_error_iff {f : Frame} {e : ErrorCode} :
    decodeFrame f = .error e ↔ ¬ f.valid = true ∧ .crcMismatch = e := by
  by_cases hv : f.valid = true <;> simp [decodeFrame, hv]

/-- Settles O27: both outcomes of `decode` as conditions on the checksums. -/
theorem decodeAcceptsExactlyValidFrames : Obligations.DecodeAcceptsExactlyValidFrames := by
  refine fun f => ⟨f.valid_iff, ?_, fun t h => ?_⟩
  · rw [decodeFrame_eq_error_iff, f.valid_iff, not_and_or]
    exact and_iff_left rfl
  · rw [decodeFrame_eq_ok_iff, f.valid_iff, eq_comm (b := t), eq_comm (b := h)]
    rfl

/-- `serial` is `decode` with the two counts joined, and fails where it does (R66). -/
theorem serialFrame_eq_map (f : Frame) : serialFrame f = (decodeFrame f).map fun c => c.1 ++ c.2 := by
  simp only [serialFrame, decodeFrame, packSerial_eq]
  split <;> rfl

/-- Joining two counts is shifting the first above the second. -/
theorem counts_append (t h : RawCount) : t ++ h = (t.setWidth 32 <<< 16) ||| h.setWidth 32 := by
  calc t ++ h
      = (t ++ h).setWidth 32 := (BitVec.setWidth_eq _).symm
    _ = (t.setWidth 32 <<< 16) ||| h.setWidth 32 := BitVec.setWidth_append_eq_shiftLeft_setWidth_or

/-- Settles O29: the serial number is the counts side by side, which are the four data bytes. -/
theorem serialIsTheCountsSideBySide : Obligations.SerialIsTheCountsSideBySide := by
  refine ⟨fun f t h hdec => ?_, fun f e hdec => ?_, by decide +kernel⟩
  · have hser : serialFrame f = .ok (t ++ h) := by rw [serialFrame_eq_map, hdec]; rfl
    obtain ⟨-, rfl, rfl⟩ := decodeFrame_eq_ok_iff.mp hdec
    refine ⟨hser.trans (congrArg Except.ok ?_), hser.trans (congrArg Except.ok (counts_append _ _))⟩
    exact (packSerial_eq_packCounts _ _ _ _).symm.trans (packSerial_eq_append _ _ _ _)
  · obtain ⟨-, rfl⟩ := decodeFrame_eq_error_iff.mp hdec
    rw [serialFrame_eq_map, hdec]; rfl

end Sys2Proof.Machine
end

section
/-! PROOF. Runs that start a frame: `CLR` and reset forget the past, and the `DECODE` sequence (41_framecodec.md R72, R73). -/

namespace Sys2Proof.Machine

/-- After reset everything is answered from no accepted bytes, whatever the state was (R73, R92). -/
theorem runEvents_reset_answersFrom (es : List HostEvent) (s : State) :
    AnswersFrom s (runEvents (.reset :: es) s) (acceptAll [] es) (answerAll [] es) := by
  rw [runEvents_of_step es (step_reset (s := s.issueFirst .reset) rfl)]
  have hstart := runEvents_answersFrom es (represents_nil (s := { s with acc := 0xFF#8, cnt := 0, mis := false, frame := [] })
    rfl rfl rfl)
  exact AnswersFrom.trans (rs := []) (List.append_nil _).symm rfl hstart

/-- Settles O53: both start from no accepted bytes, and the answers to what follows are those of `answerAll []`. -/
theorem responsesForgetThePast : Obligations.ResponsesForgetThePast := by
  intro s₁ s₂ es
  obtain ⟨t₁, hrunt₁, -, ht₁, -⟩ := runEvents_clear_answersFrom es s₁
  obtain ⟨t₂, hrunt₂, -, ht₂, -⟩ := runEvents_clear_answersFrom es s₂
  obtain ⟨u₁, hrunu₁, -, hu₁, -⟩ := runEvents_reset_answersFrom es s₁
  obtain ⟨u₂, hrunu₂, -, hu₂, -⟩ := runEvents_reset_answersFrom es s₂
  exact ⟨t₁, t₂, u₁, u₂, answerAll [] es, hrunt₁, hrunt₂, hrunu₁, hrunu₂, ht₁, ht₂, hu₁, hu₂⟩

/-- A read or a reserved word gives one response and leaves the accepted bytes as they are (R72). -/
theorem event_of_not_touchesBlock {e : HostEvent} (h : touchesBlock e = false) (bs : List Byte) :
    acceptEvent bs e = bs ∧ ∃ r, answerEvent bs e = [r] := by
  cases e with
  | reset => cases h
  | op w =>
    cases hd : decode w with
    | error why => simp [acceptEvent, answerEvent, hd]
    | ok i =>
      simp only [touchesBlock, hd] at h
      simp only [acceptEvent, answerEvent, hd]
      refine ⟨?_, _, rfl⟩
      cases i with
      | clr => cases h
      | push b => cases h
      | stat => rfl
      | rdacc => rfl
      | dec => rfl
      | ser => rfl

/-- Of events that touch the block by the `PUSH` of `ps` alone, where `ps` still fits: all of `ps` is accepted, and every event has
one response, `Ok` to each `PUSH` (R72). -/
theorem run_of_filter_pushes {es : List HostEvent} {bs ps : List Byte}
    (hes : es.filter touchesBlock = asEvents (ps.map .push)) (hlen : bs.length + ps.length ≤ 6) :
    acceptAll bs es = bs ++ ps ∧
      List.Forall₂ (fun e r => touchesBlock e = true → r = .ok) es (answerAll bs es) := by
  induction es generalizing bs ps with
  | nil =>
    obtain rfl : ps = [] := by simpa [asEvents] using hes
    exact ⟨(List.append_nil bs).symm, .nil⟩
  | cons e es ih =>
    cases he : touchesBlock e with
    | false =>
      obtain ⟨haccept, r, hanswer⟩ := event_of_not_touchesBlock he bs
      rw [List.filter_cons_of_neg (by simp [he])] at hes
      obtain ⟨hall, hresp⟩ := ih hes hlen
      simp only [acceptAll, answerAll, haccept, hanswer]
      exact ⟨hall, .cons (by simp [he]) hresp⟩
    | true =>
      rw [List.filter_cons_of_pos he] at hes
      obtain ⟨b, ps, rfl⟩ : ∃ b qs, ps = b :: qs := List.exists_cons_of_ne_nil (by rintro rfl; cases hes)
      obtain ⟨rfl, hrest⟩ := List.cons.inj hes
      have hlt : bs.length < 6 := by simp only [List.length_cons] at hlen; omega
      obtain ⟨hall, hresp⟩ := ih (bs := bs ++ [b]) hrest (by simpa [Nat.add_assoc, Nat.add_comm 1] using hlen)
      simp only [acceptAll, answerAll, acceptEvent_encode, answerEvent_encode, acceptOp, answerOf, if_pos hlt]
      exact ⟨hall.trans (List.append_assoc bs [b] ps), .cons (fun _ => rfl) hresp⟩

/-- What a state that has accepted the bytes of a frame holds (R72). -/
theorem State.Represents.of_frame {t : State} {f : Frame} (h : t.Represents f.bytes) :
    t.acc = 0xFF#8 ∧ t.cnt = 6 ∧ t.mis = (!f.valid) ∧ ∀ i : Index, t.frame.read i = f.bytes[i.val]? :=
  ⟨h.acc, Fin.ext h.cnt.symm, h.mis.trans (misOf_bytes f), fun i => h.frame i i.isLt⟩

theorem execDec_of_frame {t : State} {f : Frame} (h : t.Represents f.bytes) :
    exec .dec t = .next (t.respond (decodeResponse f)) := by
  have hanswer : collectAnswer packCounts f.bytes = decodeResponse f := (answerOf_dec f.bytes).symm
  exact hanswer ▸ collect_of_represents packCounts h

theorem execSer_of_frame {t : State} {f : Frame} (h : t.Represents f.bytes) :
    exec .ser t = .next (t.respond (serialResponse f)) := by
  have hanswer : collectAnswer packSerial f.bytes = serialResponse f := (answerOf_ser f.bytes).symm
  exact hanswer ▸ collect_of_represents packSerial h

/-- `CLR`, the six `PUSH` of a frame and one more operation: seven `Ok` and the answer to that operation on the six bytes. -/
theorem runEvents_frame_then (f : Frame) (i : Instr) (s : State) :
    AnswersFrom s (runEvents (asEvents (pseudoFrame f ++ [i])) s) (acceptOp f.bytes i)
      (List.replicate 7 .ok ++ [answerOf f.bytes i]) := by
  have hbytes : acceptAll [] (asEvents (f.bytes.map .push ++ [i])) = acceptOp f.bytes i := by
    simp [asEvents, acceptAll, acceptOp, Frame.bytes]
  have hanswers : answerAll [] (asEvents (f.bytes.map .push ++ [i])) =
      List.replicate 6 .ok ++ [answerOf f.bytes i] := by
    simp [asEvents, answerAll, acceptOp, answerOf, Frame.bytes]
  have hrun := runEvents_clear_answersFrom (asEvents (f.bytes.map .push ++ [i])) s
  rwa [hbytes, hanswers] at hrun

/-- Settles O55: the operations one after the other are `runEvents_frame_then`; with reads and reserved words among them the bytes
accepted are again the frame (`run_of_filter_pushes`). -/
theorem decodeSequenceComputesDecode : Obligations.DecodeSequenceComputesDecode := by
  refine ⟨fun s f => ?_, fun s f es hes => ?_⟩
  · obtain ⟨t, hrunt, ht, hrespt, hisst⟩ := runEvents_frame_then f .dec s
    obtain ⟨u, hrunu, hu, hrespu, hissu⟩ := runEvents_frame_then f .ser s
    obtain ⟨hacct, hcntt, hmist, hframet⟩ := State.Represents.of_frame ht
    obtain ⟨haccu, hcntu, hmisu, hframeu⟩ := State.Represents.of_frame hu
    exact ⟨t, u, hrunt, hrespt.trans (List.append_assoc _ _ _).symm, hrunu,
      hrespu.trans (List.append_assoc _ _ _).symm, hacct, hcntt, hframet, hmist, hisst, haccu, hcntu, hframeu, hmisu, hissu⟩
  · obtain ⟨hall, hanswers⟩ := run_of_filter_pushes (bs := []) hes (by simp [Frame.bytes])
    obtain ⟨t, hrun, ht, hresp, hiss⟩ := runEvents_clear_answersFrom es s
    rw [hall] at ht
    obtain ⟨hacc, hcnt, hmis, hframe⟩ := State.Represents.of_frame ht
    refine ⟨t, answerAll [] es, hrun, hresp, hanswers.length_eq.symm, fun k e hk he => ?_, hacc, hcnt, hmis, hframe, hiss,
      execDec_of_frame ht, execSer_of_frame ht⟩
    obtain ⟨hlt, rfl⟩ := List.getElem?_eq_some_iff.mp hk
    exact List.getElem?_eq_some_iff.mpr ⟨hanswers.length_eq ▸ hlt, hanswers.get _ _ he⟩

end Sys2Proof.Machine
end

section
/-! PROOF. An idle block holds its state (60_exceptions.md R90). -/

namespace Sys2Proof.Machine

/-- Settles O13: with no event issued there is nothing to serve. -/
theorem stepHoldsAnIdleBlock : Obligations.StepHoldsAnIdleBlock := fun _ => step_nothing_issued

end Sys2Proof.Machine
end

section
/-! PROOF. Errors: which operations raise each and when, and that one changes no state (60_exceptions.md R77, R78). -/

namespace Sys2Proof.Machine

/-- The error `DEC` and `SER` raise, none where they raise none (R79, R80). -/
def collectError (s : State) : Option ErrorCode :=
  if s.cnt ≠ 6 then some .frameIncomplete else if s.mis then some .crcMismatch else none

/-- The error an operation raises, none where it raises none: R78's table read by operation. -/
def errorOf (s : State) : Instr → Option ErrorCode
  | .clr => none
  | .push _ => if s.cnt = 6 then some .frameOverrun else none
  | .stat => none
  | .rdacc => none
  | .dec => collectError s
  | .ser => collectError s

/-- The error raised by an operation word, of which the reserved ones raise IllegalOp in every state (R78, R82). -/
def wordError (s : State) (w : OpWord) : Option ErrorCode :=
  match decode w with
  | .ok i => errorOf s i
  | .error _ => some .illegalOp

theorem collectError_eq_none_iff {s : State} : collectError s = none ↔ s.cnt = 6 ∧ s.mis = false := by
  by_cases h6 : s.cnt = 6 <;> simp [collectError, h6]

/-- Where `DEC` or `SER` raises an error, that response is all it gives. -/
theorem collect_of_collectError (pack : Byte → Byte → Byte → Byte → Data) {s : State} {e : ErrorCode}
    (h : collectError s = some e) : collect pack s = .next (s.respond (.err e)) := by
  by_cases h6 : s.cnt = 6
  · cases hm : s.mis with
    | true =>
      have he : ErrorCode.crcMismatch = e := by simpa [collectError, h6, hm] using h
      exact he ▸ collect_mismatch pack h6 hm
    | false => cases (collectError_eq_none_iff.mpr ⟨h6, hm⟩).symm.trans h
  · have he : ErrorCode.frameIncomplete = e := by simpa [collectError, h6] using h
    exact he ▸ collect_incomplete pack h6

/-- Where an operation raises an error, that response is all it gives (R77). -/
theorem exec_of_errorOf {i : Instr} {s : State} {e : ErrorCode} (h : errorOf s i = some e) :
    exec i s = .next (s.respond (.err e)) := by
  cases i with
  | clr => cases h
  | push b =>
    obtain ⟨h6, rfl⟩ : s.cnt = 6 ∧ ErrorCode.frameOverrun = e := by simpa [errorOf] using h
    exact execPush_overrun b h6
  | stat => cases h
  | rdacc => cases h
  | dec => exact collect_of_collectError packCounts h
  | ser => exact collect_of_collectError packSerial h

/-- Where `DEC` or `SER` answers without an error, it is with the four data bytes, each of which holds a value (R70, R71). -/
theorem collect_next_valid {pack : Byte → Byte → Byte → Byte → Data} {s t : State} (hn : collectError s = none)
    (h : collect pack s = .next t) : ∃ f0 f1 f3 f4, s.frame.read 0 = some f0 ∧ s.frame.read 1 = some f1 ∧
      s.frame.read 3 = some f3 ∧ s.frame.read 4 = some f4 ∧ t = s.respond (.okData (pack f0 f1 f3 f4)) := by
  obtain ⟨h6, hm⟩ := collectError_eq_none_iff.mp hn
  have hheld : ¬ (s.frame.read 0 = none ∨ s.frame.read 1 = none ∨ s.frame.read 3 = none ∨ s.frame.read 4 = none) := by
    intro hnone
    obtain ⟨i, -, hfault⟩ := collect_unwritten h6 hm hnone
    cases (hfault pack).symm.trans h
  simp only [not_or, ← ne_eq, Option.ne_none_iff_exists'] at hheld
  obtain ⟨⟨f0, h0⟩, ⟨f1, h1⟩, ⟨f3, h3⟩, ⟨f4, h4⟩⟩ := hheld
  cases (collect_valid pack h6 hm h0 h1 h3 h4).symm.trans h
  exact ⟨f0, f1, f3, f4, h0, h1, h3, h4, rfl⟩

/-- An operation that raises no error answers with `Ok`. -/
theorem exec_responds_ok {i : Instr} {s t : State} (hn : errorOf s i = none) (h : exec i s = .next t) :
    ∃ r, (∀ e, r ≠ .err e) ∧ t.responses = s.responses ++ [r] := by
  cases i with
  | clr => cases h; exact ⟨.ok, nofun, rfl⟩
  | push b =>
    rcases execPush_cases b s with ⟨h6, -⟩ | ⟨i, -, he⟩ | ⟨i, -, he⟩
    · simp [errorOf, h6] at hn
    · cases he.symm.trans h; exact ⟨.ok, nofun, rfl⟩
    · cases he.symm.trans h; exact ⟨.ok, nofun, rfl⟩
  | stat => cases h; exact ⟨.okData _, nofun, rfl⟩
  | rdacc => cases h; exact ⟨.okData _, nofun, rfl⟩
  | dec => obtain ⟨f0, f1, f3, f4, -, -, -, -, rfl⟩ := collect_next_valid hn h; exact ⟨.okData _, nofun, rfl⟩
  | ser => obtain ⟨f0, f1, f3, f4, -, -, -, -, rfl⟩ := collect_next_valid hn h; exact ⟨.okData _, nofun, rfl⟩

/-- A word that raises an error is taken and answered with that error, and nothing else happens (R77). -/
theorem step_of_wordError {s : State} {w : OpWord} {rest : List HostEvent} {e : ErrorCode} (hi : s.issued = .op w :: rest)
    (h : wordError s w = some e) : step s = .next (({ s with issued := rest } : State).respond (.err e)) := by
  unfold wordError at h
  cases hd : decode w with
  | ok i =>
    rw [hd] at h
    exact (step_decoded hi hd).trans (exec_of_errorOf h)
  | error why =>
    rw [hd] at h
    cases h
    exact step_reserved hi hd

/-- A step that serves a word answers with an error exactly when the word raises it. -/
theorem step_responds_err_iff {s t : State} {w : OpWord} {rest : List HostEvent} {e : ErrorCode}
    (hi : s.issued = .op w :: rest) (h : step s = .next t) :
    t.responses = s.responses ++ [.err e] ↔ wordError s w = some e := by
  cases hw : wordError s w with
  | some e' => cases (step_of_wordError hi hw).symm.trans h; simp
  | none =>
    cases hd : decode w with
    | ok i =>
      have hn : errorOf s i = none := by simpa [wordError, hd] using hw
      obtain ⟨r, hr, hresp⟩ := exec_responds_ok (s := { s with issued := rest }) hn ((step_decoded hi hd).symm.trans h)
      simp [hresp, hr e]
    | error why => simp [wordError, hd] at hw

/-- `Ok` is code 0, and no error is (R78). -/
theorem Response.code_eq_zero_iff (r : Response) : r.code = 0#4 ↔ ∀ e, r ≠ .err e := by
  cases r with
  | ok => simp [Response.code]
  | okData v => simp [Response.code]
  | err e => cases e <;> simp [Response.code, ErrorCode.number]

/-- Settles O43: a response is an error exactly when its word raises it, and the word's operation says when that is. -/
theorem errorTable : Obligations.ErrorTable := by
  refine ⟨⟨rfl, rfl, rfl, rfl, fun r => ⟨Nat.lt_succ_of_le r.code_le_four, r.code_eq_zero_iff⟩⟩, fun s t w rest hi h => ?_⟩
  simp only [step_responds_err_iff hi h, wordError]
  cases decode w with
  | error why => simp
  | ok i =>
    cases i with
    | clr => simp [errorOf]
    | push b => simp [errorOf]
    | stat => simp [errorOf]
    | rdacc => simp [errorOf]
    | dec => by_cases h6 : s.cnt = 6 <;> simp [errorOf, collectError, h6]
    | ser => by_cases h6 : s.cnt = 6 <;> simp [errorOf, collectError, h6]

/-- What `DEC` and `SER` answer does not depend on the responses given before. -/
theorem collect_with_responses {pack : Byte → Byte → Byte → Byte → Data} {s u : State} (h : collect pack s = .next u) :
    ∃ r, u.responses = s.responses ++ [r] ∧
      ∀ rs, collect pack { s with responses := rs } = .next { u with responses := rs ++ [r] } := by
  cases he : collectError s with
  | some e =>
    cases (collect_of_collectError pack he).symm.trans h
    exact ⟨.err e, rfl, fun rs => collect_of_collectError pack (s := { s with responses := rs }) he⟩
  | none =>
    obtain ⟨h6, hm⟩ := collectError_eq_none_iff.mp he
    obtain ⟨f0, f1, f3, f4, h0, h1, h3, h4, rfl⟩ := collect_next_valid he h
    exact ⟨_, rfl, fun rs => collect_valid pack (s := { s with responses := rs }) h6 hm h0 h1 h3 h4⟩

/-- What an operation answers does not depend on the responses given before. -/
theorem exec_with_responses {i : Instr} {s u : State} (h : exec i s = .next u) :
    ∃ r, u.responses = s.responses ++ [r] ∧
      ∀ rs, exec i { s with responses := rs } = .next { u with responses := rs ++ [r] } := by
  cases i with
  | clr => cases h; exact ⟨_, rfl, fun _ => rfl⟩
  | push b =>
    rcases execPush_cases b s with ⟨h6, he⟩ | ⟨i, hp, he⟩ | ⟨i, hp, he⟩
    · cases he.symm.trans h
      exact ⟨_, rfl, fun rs => execPush_overrun (s := { s with responses := rs }) b h6⟩
    · cases he.symm.trans h
      exact ⟨_, rfl, fun rs => execPush_data (s := { s with responses := rs }) b hp⟩
    · cases he.symm.trans h
      exact ⟨_, rfl, fun rs => execPush_check (s := { s with responses := rs }) b hp⟩
  | stat => cases h; exact ⟨_, rfl, fun _ => rfl⟩
  | rdacc => cases h; exact ⟨_, rfl, fun _ => rfl⟩
  | dec => exact collect_with_responses h
  | ser => exact collect_with_responses h

/-- Settles O42: the error is all the step adds (`step_of_wordError`), and no operation reads the responses before its own. -/
theorem errorsChangeNoState : Obligations.ErrorsChangeNoState := by
  intro s t w rest e hi h hresp
  cases (step_of_wordError hi ((step_responds_err_iff hi h).mp hresp)).symm.trans h
  refine ⟨⟨rfl, rfl, rfl, rfl⟩, rfl, fun i u hu => ?_⟩
  obtain ⟨r, hr, hall⟩ := exec_with_responses hu
  refine ⟨r, hr, ?_⟩
  calc exec i (({ s with issued := rest } : State).respond (.err e))
      = .next { u with responses := (s.responses ++ [.err e]) ++ [r] } := hall (s.responses ++ [Response.err e])
    _ = .next { u with responses := s.responses ++ [.err e, r] } := by rw [List.append_assoc, List.singleton_append]

end Sys2Proof.Machine
end

section
/-! PROOF. The reset event between two operations (70_reset_and_hazards.md R92). -/

namespace Sys2Proof.Machine

/-- Settles O14: `step_reset` gives the state field by field, and an empty buffer holds no value at any address. -/
theorem stepServesTheResetEvent : Obligations.StepServesTheResetEvent :=
  fun _ _ h => ⟨_, step_reset h, rfl, rfl, rfl, Memory.read_nil, rfl, rfl⟩

end Sys2Proof.Machine
end
